-- ==== Sys2Proof/Word.lean ====
section
/-! DEFINITION. The word types (R4, R9, R10): bytes, the two variants, their word width and number of rounds. -/

namespace Sys2Proof

/-- One byte. -/
abbrev Byte := BitVec 8

/-- A 32-bit quantity: bus data, window offsets, command words, the 32-bit registers (R9). -/
abbrev Bus32 := BitVec 32

/-- The two engine variants, which are also the two instances (R2, R3). -/
inductive Variant where
  | e32
  | e64
deriving DecidableEq, Repr

namespace Variant

/-- `w`, the word width in bits (R4). -/
abbrev w : Variant → Nat
  | e32 => 32
  | e64 => 64

/-- `R`, schedule words per block and rounds per block (R4). -/
abbrev rounds : Variant → Nat
  | e32 => 64
  | e64 => 80

end Variant

/-- A Word: an unsigned integer of the variant's width (R10). -/
abbrev Word (v : Variant) := BitVec v.w

/-- The eight State words `H[0..7]`, or any eight words (R21). -/
abbrev Words8 (v : Variant) := Vector (Word v) 8

end Sys2Proof
end

