-- ==== Sys2Proof/Config.lean ====
section
/-! DEFINITION. The implementation parameters of R8 and the free values: constants without a body, of which nothing can be proved. -/

namespace Sys2Proof

/-- The parameters a model takes as arguments (R8, D4, D5; log 1). `MSG_CAP` is held in 4-byte words, so that the spec's constraint
`MSG_CAP mod 4 = 0` and `MSG_CAP <= 2^24` holds of every value of the type. -/
structure Params where
  capWords : Fin 4194305
  baseE32  : Nat
  baseE64  : Nat
deriving DecidableEq, Repr

namespace Config

/-- U1, D28 (log 4): the byte drawn for `MSG[i]` of an instance at its reset number `epoch`. -/
opaque msgDraw : Variant → Nat → Nat → Byte

/-- U2, U3 (log 5): the byte drawn for `PADBUF[i]` of an instance at its reset number `epoch`. -/
opaque padDraw : Variant → Nat → Nat → Byte

/-- U2 (log 7): the value drawn for working register number `k` of an instance at its reset number `epoch`. -/
opaque workDraw : (v : Variant) → Nat → Nat → Word v

/-- U2 (log 7): the value drawn for `W[t]` of an instance at its reset number `epoch`. -/
opaque schedDraw : (v : Variant) → Nat → Nat → Word v

/-- Log 10: `W[t]` for an index `t >= R`, which no rule reads. -/
opaque schedBeyond : (v : Variant) → Nat → Word v

/-- Log 10: `K[t]` for an index `t >= R`, which no rule reads. -/
opaque constBeyond : (v : Variant) → Nat → Word v

/-- U4 (log 3): which of two busy instances goes on when the schedule says nothing. -/
opaque enginePick : Nat → Bool

end Config

end Sys2Proof
end

