-- ==== Sys2Proof/Syntax.lean ====
section
/-! DEFINITION. The syntax: the encoded objects of R80 and one constructor of `Instr` for each row of spec/opcode_table.json. -/

namespace Sys2Proof

/-- A host bus transaction descriptor `(DIR, SIZE, OFF, WDATA)` (R84): `DIR` is the constructor, `WDATA` is "present only for a write". -/
inductive BusAccess where
  | read  (size : BitVec 2) (off : Bus32)
  | write (size : BitVec 2) (off : Bus32) (wdata : Bus32)
deriving DecidableEq, Repr

/-- The three encoded objects that select behaviour (R80). -/
inductive Code where
  | command (word : Bus32)
  | bus     (access : BusAccess)
  | phase   (code : BitVec 4)
deriving DecidableEq, Repr

/-- The rows of spec/opcode_table.json. Every row acts on one instance, `v`: the window that is accessed, or the instance whose
engine takes the micro-step. -/
inductive Instr where
  -- command words, written with a WR32 to CMD (R82, R83)
  | nop            (v : Variant)
  | start          (v : Variant)
  | clear          (v : Variant)
  | clrErr         (v : Variant)
  | cmdRsvOp4to7   (v : Variant) (low : BitVec 2)
  | cmdRsvOp8to15  (v : Variant) (low : BitVec 3)
  | cmdRsvHigh     (v : Variant) (rsv : BitVec 28) (op : BitVec 4)
  -- bus transactions (R84, R85)
  | rd8            (v : Variant) (off : Bus32)
  | rd32           (v : Variant) (off : Bus32)
  | wr8            (v : Variant) (off : Bus32) (wdata : Bus32)
  | wr32           (v : Variant) (off : Bus32) (wdata : Bus32)
  | rd16           (v : Variant) (off : Bus32)
  | rdx            (v : Variant) (off : Bus32)
  | wr16           (v : Variant) (off : Bus32) (wdata : Bus32)
  | wrx            (v : Variant) (off : Bus32) (wdata : Bus32)
  -- phase codes (R86, R87)
  | idle           (v : Variant)
  | init           (v : Variant)
  | pad            (v : Variant)
  | segment        (v : Variant)
  | expand         (v : Variant)
  | round          (v : Variant)
  | update         (v : Variant)
  | assemble       (v : Variant)
  | done           (v : Variant)
  | phaseRsv9      (v : Variant)
  | phaseRsv10     (v : Variant)
  | phaseRsv11     (v : Variant)
  | phaseRsv12     (v : Variant)
  | phaseRsv13     (v : Variant)
  | phaseRsv14     (v : Variant)
  | phaseRsv15     (v : Variant)
deriving DecidableEq, Repr

/-- The instance an instruction acts on. -/
@[reducible] def Instr.variant : Instr → Variant
  | .nop v => v
  | .start v => v
  | .clear v => v
  | .clrErr v => v
  | .cmdRsvOp4to7 v _ => v
  | .cmdRsvOp8to15 v _ => v
  | .cmdRsvHigh v _ _ => v
  | .rd8 v _ => v
  | .rd32 v _ => v
  | .wr8 v _ _ => v
  | .wr32 v _ _ => v
  | .rd16 v _ => v
  | .rdx v _ => v
  | .wr16 v _ _ => v
  | .wrx v _ _ => v
  | .idle v => v
  | .init v => v
  | .pad v => v
  | .segment v => v
  | .expand v => v
  | .round v => v
  | .update v => v
  | .assemble v => v
  | .done v => v
  | .phaseRsv9 v => v
  | .phaseRsv10 v => v
  | .phaseRsv11 v => v
  | .phaseRsv12 v => v
  | .phaseRsv13 v => v
  | .phaseRsv14 v => v
  | .phaseRsv15 v => v

end Sys2Proof
end

