-- ==== Sys2Proof/WellFormed.lean ====
section
/-! DEFINITION. Which terms of `Instr` are instructions. Every operand's width is its type; the one check left is the condition of the
table's row CMD_RSV_HIGH. -/

namespace Sys2Proof

/-- The check on one instruction: CMD_RSV_HIGH is "every word with RSV != 0" (R83; with RSV = 0 the word belongs to another row). -/
def Instr.wellFormed : Instr → Bool
  | .nop _ => true
  | .start _ => true
  | .clear _ => true
  | .clrErr _ => true
  | .cmdRsvOp4to7 _ _ => true
  | .cmdRsvOp8to15 _ _ => true
  | .cmdRsvHigh _ rsv _ => rsv != 0#28
  | .rd8 _ _ => true
  | .rd32 _ _ => true
  | .wr8 _ _ _ => true
  | .wr32 _ _ _ => true
  | .rd16 _ _ => true
  | .rdx _ _ => true
  | .wr16 _ _ _ => true
  | .wrx _ _ _ => true
  | .idle _ => true
  | .init _ => true
  | .pad _ => true
  | .segment _ => true
  | .expand _ => true
  | .round _ => true
  | .update _ => true
  | .assemble _ => true
  | .done _ => true
  | .phaseRsv9 _ => true
  | .phaseRsv10 _ => true
  | .phaseRsv11 _ => true
  | .phaseRsv12 _ => true
  | .phaseRsv13 _ => true
  | .phaseRsv14 _ => true
  | .phaseRsv15 _ => true

end Sys2Proof
end

