-- ==== Sys2Proof/Decode.lean ====
section
/-! DEFINITION. The decoder of the three encoded objects (R80 to R89, R96), total on every code, and the encoder. Every code decodes: a
reserved command word, bus kind or phase code is a row of the table with an effect of its own. -/

namespace Sys2Proof

/-! ## Command words (R81 to R83) -/

/-- `OP`, bits 3:0 of a command word (R81). -/
def commandOp (word : Bus32) : BitVec 4 := word.extractLsb' 0 4

/-- `RSV`, bits 31:4 of a command word (R81). -/
def commandRsv (word : Bus32) : BitVec 28 := word.extractLsb' 4 28

/-- The command a word selects: "only when RSV = 0", by `OP` (R82); every other word is reserved (R83). -/
def decodeCommand (v : Variant) (word : Bus32) : Instr :=
  let op := commandOp word
  if commandRsv word != 0#28 then .cmdRsvHigh v (commandRsv word) op
  else if op = 0x0#4 then .nop v
  else if op = 0x1#4 then .start v
  else if op = 0x2#4 then .clear v
  else if op = 0x3#4 then .clrErr v
  else if op.toNat < 8 then .cmdRsvOp4to7 v (op.extractLsb' 0 2)
  else .cmdRsvOp8to15 v (op.extractLsb' 0 3)

/-! ## Bus transactions (R84, R85) -/

/-- `KIND = {DIR, SIZE}`, with `DIR` 0 for a read and 1 for a write (R84). -/
def BusAccess.kind : BusAccess → BitVec 3
  | .read size _ => 0#1 ++ size
  | .write size _ _ => 1#1 ++ size

/-- The descriptor with a given `KIND`, offset and write data; a read has no `WDATA` (R84). -/
def BusAccess.ofKind (kind : BitVec 3) (off wdata : Bus32) : BusAccess :=
  if kind.getLsbD 2 then .write (kind.extractLsb' 0 2) off wdata
  else .read (kind.extractLsb' 0 2) off

/-- The bus instruction a transaction's `KIND` selects (R84); `SIZE` 1 and 3 are reserved (R85). -/
def decodeBus (v : Variant) : BusAccess → Instr
  | .read size off =>
    if size = 0#2 then .rd8 v off
    else if size = 1#2 then .rd16 v off
    else if size = 2#2 then .rd32 v off
    else .rdx v off
  | .write size off wdata =>
    if size = 0#2 then .wr8 v off wdata
    else if size = 1#2 then .wr16 v off wdata
    else if size = 2#2 then .wr32 v off wdata
    else .wrx v off wdata

/-! ## Phase codes (R86, R87) -/

/-- The micro-operation a phase code selects (R86); codes 9 to 15 are reserved (R87). -/
def decodePhase (v : Variant) (code : BitVec 4) : Instr :=
  match code.toNat with
  | 0 => .idle v
  | 1 => .init v
  | 2 => .pad v
  | 3 => .segment v
  | 4 => .expand v
  | 5 => .round v
  | 6 => .update v
  | 7 => .assemble v
  | 8 => .done v
  | 9 => .phaseRsv9 v
  | 10 => .phaseRsv10 v
  | 11 => .phaseRsv11 v
  | 12 => .phaseRsv12 v
  | 13 => .phaseRsv13 v
  | 14 => .phaseRsv14 v
  | _ => .phaseRsv15 v

/-! ## The whole decode (R96) and the encoder -/

/-- "The complete decode is the three tables of rules R82, R84 and R86" (R96), for the instance `v`; no mode changes it and both windows
decode alike (R89). -/
def decode (v : Variant) : Code → Instr
  | .command word => decodeCommand v word
  | .bus access => decodeBus v access
  | .phase code => decodePhase v code

/-- The code of a bus transaction as it arrives (R34, R217; log 14): the data of a WR32 to `CMD` (offset 0x004) is a command word; every
other transaction is its descriptor. -/
def BusAccess.code : BusAccess → Code
  | .read size off => .bus (.read size off)
  | .write size off wdata =>
    if size = 2#2 ∧ off = 0x004#32 then .command wdata else .bus (.write size off wdata)

/-- The code of an instruction, from the same tables (R82, R84, R86). -/
def encode : Instr → Code
  | .nop _ => .command 0x00000000#32
  | .start _ => .command 0x00000001#32
  | .clear _ => .command 0x00000002#32
  | .clrErr _ => .command 0x00000003#32
  | .cmdRsvOp4to7 _ low => .command (1#30 ++ low)
  | .cmdRsvOp8to15 _ low => .command (1#29 ++ low)
  | .cmdRsvHigh _ rsv op => .command (rsv ++ op)
  | .rd8 _ off => .bus (.read 0#2 off)
  | .rd32 _ off => .bus (.read 2#2 off)
  | .wr8 _ off wdata => .bus (.write 0#2 off wdata)
  | .wr32 _ off wdata => .bus (.write 2#2 off wdata)
  | .rd16 _ off => .bus (.read 1#2 off)
  | .rdx _ off => .bus (.read 3#2 off)
  | .wr16 _ off wdata => .bus (.write 1#2 off wdata)
  | .wrx _ off wdata => .bus (.write 3#2 off wdata)
  | .idle _ => .phase 0#4
  | .init _ => .phase 1#4
  | .pad _ => .phase 2#4
  | .segment _ => .phase 3#4
  | .expand _ => .phase 4#4
  | .round _ => .phase 5#4
  | .update _ => .phase 6#4
  | .assemble _ => .phase 7#4
  | .done _ => .phase 8#4
  | .phaseRsv9 _ => .phase 9#4
  | .phaseRsv10 _ => .phase 10#4
  | .phaseRsv11 _ => .phase 11#4
  | .phaseRsv12 _ => .phase 12#4
  | .phaseRsv13 _ => .phase 13#4
  | .phaseRsv14 _ => .phase 14#4
  | .phaseRsv15 _ => .phase 15#4

/-! ## The host's view of the table (log 14) -/

/-- A transaction descriptor as one number: `KIND` in bits 2:0 as the table numbers it, then `OFF`, then `WDATA` (the order of R84). -/
def accessOfBits (w : Nat) : BusAccess :=
  .ofKind (BitVec.ofNat 3 w) (BitVec.ofNat 32 (w / 2 ^ 3)) (BitVec.ofNat 32 (w / 2 ^ 35))

/-- The code that `nbits` bits of the table stand for (log 14): 32 bits are a command word; one byte (or 4 bits) is a phase code; 3 bits
are a bus kind with offset 0 and data 0; nine bytes are a whole descriptor. The table gives a bus kind and a phase code one byte each, with
the same values: the byte is read as a phase code. -/
def codeOfTableWord (nbits w : Nat) : Option Code :=
  if nbits = 32 then
    if w < 2 ^ 32 then some (.command (BitVec.ofNat 32 w)) else none
  else if nbits = 8 ∨ nbits = 4 then
    if w < 2 ^ 4 then some (.phase (BitVec.ofNat 4 w)) else none
  else if nbits = 3 then
    if w < 2 ^ 3 then some (accessOfBits w).code else none
  else if nbits = 72 then
    if w < 2 ^ 67 then some (accessOfBits w).code else none
  else none

/-- The instruction the decoder reads from a word of the table, for the Engine-32 instance. -/
def decodeTableWord (nbits w : Nat) : Option Instr :=
  match codeOfTableWord nbits w with
  | some code => some (decode .e32 code)
  | none => none

end Sys2Proof
end

