-- ==== Sys2Proof/Machine/State.lean ====
section
/-! DEFINITION. The state (10_state.md): the two instances, the parameters, what is still to come from outside, and what a read answered. -/

namespace Sys2Proof.Machine

/-- A byte buffer: the bytes written so far, by index, strictly rising. An index that is not listed has not been written (logs 4, 5, 16). -/
abbrev Memory := List Host.Cell

/-- The canonical form of a buffer: indexes strictly rising, so that equal buffers are equal lists. -/
abbrev Memory.wf (m : Memory) : Prop := m.Pairwise (fun c d => c.1 < d.1)

/-- The working registers `A, B, C, D, E, F, G, Hw` (R22). -/
structure Working (v : Variant) where
  a  : Word v
  b  : Word v
  c  : Word v
  d  : Word v
  e  : Word v
  f  : Word v
  g  : Word v
  hw : Word v
deriving DecidableEq, Repr

/-- The schedule registers `W[0..R-1]` (R23). -/
abbrev Sched (v : Variant) := Vector (Word v) v.rounds

/-- One instance's state (R20 to R46). `BUSY`, `DONE`, `STATUS` and `PROGRESS` are computed from it (Flags.lean); `ID`, `CAP`, `IV` and `K`
are constants. -/
structure Engine (v : Variant) where
  /-- R24 -/
  phase   : BitVec 4
  /-- R25 -/
  blk     : Bus32
  /-- R26 -/
  rnd     : BitVec 8
  /-- R27, R37 -/
  nblk    : Bus32
  /-- R28 -/
  padLen  : Bus32
  /-- R36 -/
  msgLen  : Bus32
  /-- R31 -/
  err     : Bool
  /-- R31 -/
  errCode : BitVec 4
  /-- `H[0..7]`, R21 -/
  h       : Words8 v
  /-- R22 -/
  work    : Working v
  /-- R23 -/
  sched   : Sched v
  /-- R43 -/
  hex     : Vector Byte 128
  /-- R45 -/
  msg     : Memory
  /-- R44 -/
  padBuf  : Memory
  /-- The model's own (log 7): how many reset events the instance has had; it selects the draws of the unspecified values. -/
  epoch   : Nat
deriving DecidableEq, Repr

/-- What may happen next (R210): one micro-step of an instance, one bus transaction on its window, or its reset input (R280). -/
inductive Stimulus where
  | engine (v : Variant)
  | bus    (v : Variant) (access : BusAccess)
  | reset  (v : Variant)
deriving DecidableEq, Repr

structure State where
  /-- R8 (log 1); nothing changes it -/
  par     : Params
  /-- the Engine-32 instance (R3) -/
  e32     : Engine .e32
  /-- the Engine-64 instance (R3) -/
  e64     : Engine .e64
  /-- The model's own (log 8): what the last read of the Engine-32 window returned to the host. -/
  rdata32 : Bus32
  /-- The model's own (log 8): what the last read of the Engine-64 window returned to the host. -/
  rdata64 : Bus32
  /-- The model's own (log 2): the inputs and the interleaving still to come, next first. -/
  inbox   : List Stimulus
  /-- The model's own (log 3): which draw of `Config.enginePick` comes next. -/
  picks   : Nat
deriving DecidableEq, Repr

/-- There is no fault: "No traps" (R254), "No micro-operation can fail, block or hang" (R211). The type has no value. -/
inductive Fault where
deriving DecidableEq, Repr

/-- Why the model has no meaning for an instruction. -/
inductive Refusal where
  /-- Raised by an arm of `exec` whose instruction is not modelled yet; safe. No arm raises it. -/
  | notModelled (mnemonic : String)
deriving DecidableEq, Repr

/-! ## Reset (R48) -/

/-- R48: an instance after reset, given the values of the elements R48 leaves unspecified. -/
def Engine.atReset (v : Variant) (epoch : Nat) (work : Working v) (sched : Sched v) : Engine v where
  phase := 0#4
  blk := 0#32
  rnd := 0#8
  nblk := 0#32
  padLen := 0#32
  msgLen := 0#32
  err := false
  errCode := 0#4
  h := iv v
  work := work
  sched := sched
  hex := Vector.replicate 128 0x00#8
  msg := []
  padBuf := []
  epoch := epoch

/-- All eight working registers 0 (log 6). -/
def Working.zero (v : Variant) : Working v where
  a := 0
  b := 0
  c := 0
  d := 0
  e := 0
  f := 0
  g := 0
  hw := 0

/-- The parameters of `State.reset` (log 1): the spec's suggested capacity, and two windows that do not overlap. -/
def Params.suggested : Params where
  capWords := 1024
  baseE32 := 0
  baseE64 := 0x100000000

/-- The machine right after reset (R48, R281), for given parameters: both instances at R48's values, nothing to come. `A..Hw` and `W`,
which R48 leaves unspecified, are 0 here (log 6). -/
def State.resetWith (par : Params) : State where
  par := par
  e32 := .atReset .e32 0 (Working.zero .e32) (Vector.replicate 64 0#32)
  e64 := .atReset .e64 0 (Working.zero .e64) (Vector.replicate 80 0#64)
  rdata32 := 0#32
  rdata64 := 0#32
  inbox := []
  picks := 0

/-- The machine right after reset, with the suggested parameters. -/
def State.reset : State := State.resetWith Params.suggested

/-! ## The two instances behind one name -/

/-- The state of instance `v`. -/
def State.engine (s : State) : (v : Variant) → Engine v
  | .e32 => s.e32
  | .e64 => s.e64

/-- Replace the state of instance `v`. -/
def State.setEngine (s : State) : (v : Variant) → Engine v → State
  | .e32, e => { s with e32 := e }
  | .e64, e => { s with e64 := e }

/-- What the last read of instance `v`'s window returned. -/
def State.rdata (s : State) : Variant → Bus32
  | .e32 => s.rdata32
  | .e64 => s.rdata64

/-- Record what a read of instance `v`'s window returned. -/
def State.setRdata (s : State) : Variant → Bus32 → State
  | .e32, x => { s with rdata32 := x }
  | .e64, x => { s with rdata64 := x }

end Sys2Proof.Machine
end

