-- ==== Sys2Proof/Machine/Flags.lean ====
section
/-! DEFINITION. The status flags and the registers computed from them (R30, R33, R35, R38). The datapath has no flags (R29). -/

namespace Sys2Proof.Machine

/-- `BUSY = (1 <= PHASE <= 7)` (R30). -/
def Engine.busy (e : Engine v) : Bool := 1 ≤ e.phase.toNat && e.phase.toNat ≤ 7

/-- `DONE = (PHASE = 8)` (R30). -/
def Engine.isDone (e : Engine v) : Bool := e.phase == 8#4

/-- `STATUS` (R35): bits 31:12 and 3 are reserved and read 0. -/
def Engine.status (e : Engine v) : Bus32 :=
  0#20 ++ e.errCode ++ e.phase ++ 0#1 ++ BitVec.ofBool e.err ++ BitVec.ofBool e.isDone ++ BitVec.ofBool e.busy

/-- `PROGRESS = {BLK[23:0], RND[7:0]}` (R38). -/
def Engine.progress (e : Engine v) : Bus32 := e.blk.extractLsb' 0 24 ++ e.rnd

/-- `ID = {0x5348, N, w}` (R33). -/
def idRegister (v : Variant) : Bus32 := 0x5348#16 ++ BitVec.ofNat 8 (digestWords v) ++ BitVec.ofNat 8 v.w

/-- `CAP`, the parameter `MSG_CAP` (R39). -/
def capRegister (p : Params) : Bus32 := BitVec.ofNat 32 (msgCap p)

end Sys2Proof.Machine
end

