-- ==== Sys2Proof/Machine/Bits.lean ====
section
/-! DEFINITION. The bit utilities (40_bit_utilities.md), once over native `w`-bit words, as the engine uses them (R124), and once over
unbounded numbers, as R110 to R115 write them. -/

namespace Sys2Proof.Machine

/-! ## Over native words (R124) -/

/-- `MASK_w` (R110). -/
def mask (w : Nat) : BitVec w := BitVec.allOnes w

/-- ROTR (R111). -/
def rotr (x : BitVec w) (n : Nat) : BitVec w := x.rotateRight n

/-- ROTL (R112); no micro-operation uses it. -/
def rotl (x : BitVec w) (n : Nat) : BitVec w := x.rotateLeft n

/-- SHR (R113). -/
def shr (x : BitVec w) (n : Nat) : BitVec w := x >>> n

/-- CH (R116), with the masked NOT of R115. -/
def ch (e f g : BitVec w) : BitVec w := (e &&& f) ^^^ (~~~e &&& g)

/-- MAJ (R117). -/
def maj (a b c : BitVec w) : BitVec w := (a &&& b) ^^^ (a &&& c) ^^^ (b &&& c)

/-- BSIG0, the source's `S0` (R118). -/
def bsig0 (v : Variant) (x : Word v) : Word v :=
  let (a1, a2, a3) := bsig0Amounts v
  rotr x a1 ^^^ rotr x a2 ^^^ rotr x a3

/-- BSIG1, the source's `S1` (R119). -/
def bsig1 (v : Variant) (x : Word v) : Word v :=
  let (e1, e2, e3) := bsig1Amounts v
  rotr x e1 ^^^ rotr x e2 ^^^ rotr x e3

/-- SSIG0, the source's `s0`: its third term is a shift (R120). -/
def ssig0 (v : Variant) (x : Word v) : Word v :=
  let (r1, r2, r3) := ssig0Amounts v
  rotr x r1 ^^^ rotr x r2 ^^^ shr x r3

/-- SSIG1, the source's `s1`: its third term is a shift (R121). -/
def ssig1 (v : Variant) (x : Word v) : Word v :=
  let (r4, r5, r6) := ssig1Amounts v
  rotr x r4 ^^^ rotr x r5 ^^^ shr x r6

/-! ## Over unbounded numbers, as the rules write them -/

/-- `MASK_w = 2^w - 1` (R110). -/
def maskNat (w : Nat) : Nat := 2 ^ w - 1

/-- ROTR of any unsigned value by any amount (R111). -/
def rotrNat (w x n : Nat) : Nat :=
  let x' := x &&& maskNat w
  let m := n % w
  if m = 0 then x' else ((x' >>> m) ||| (x' <<< (w - m))) &&& maskNat w

/-- ROTL of any unsigned value by any amount (R112). -/
def rotlNat (w x n : Nat) : Nat :=
  let x' := x &&& maskNat w
  let m := n % w
  if m = 0 then x' else ((x' <<< m) ||| (x' >>> (w - m))) &&& maskNat w

/-- SHR (R113). -/
def shrNat (w x n : Nat) : Nat := (x &&& maskNat w) >>> n

/-- ADDMOD of two or more operands: "the sum is taken exactly and then masked once" (R114). -/
def addModNat (w : Nat) (vs : List Nat) : Nat := vs.sum % 2 ^ w

/-- The masked complement (R115). -/
def notNat (w x : Nat) : Nat := x ^^^ maskNat w

end Sys2Proof.Machine
end

