-- ==== Sys2Proof/Machine/Memory.lean ====
section
/-! DEFINITION. The byte buffers MSG and PADBUF (R44, R45): one read and one write, which keeps the canonical form. -/

namespace Sys2Proof.Machine

/-- The byte last written at an index; none where nothing has been written. -/
def Memory.read? (m : Memory) (a : Nat) : Option Byte := List.lookup a m

/-- The entries of consecutive bytes from index `base` on. -/
def Memory.cells (base : Nat) : List Byte → Memory
  | [] => []
  | b :: bs => (base, b) :: Memory.cells (base + 1) bs

/-- Write consecutive bytes from index `base` on, in one step. -/
def Memory.writeRange (m : Memory) (base : Nat) (bs : List Byte) : Memory :=
  m.filter (fun c => c.1 < base) ++ Memory.cells base bs ++ m.filter (fun c => base + bs.length ≤ c.1)

end Sys2Proof.Machine
end

