-- ==== Sys2Proof/Machine/Operands.lean ====
section
/-! DEFINITION. Operand assembly (R88): little-endian lanes on the host bus, big-endian words and length field inside the engine, and the
hexadecimal digits of a word. -/

namespace Sys2Proof.Machine

/-! ## Host bus lanes (R53) -/

/-- `{b3, b2, b1, b0}`: data bits `[8i+7:8i]` are the byte at offset `off + i` (R53). -/
def ofLanes (b0 b1 b2 b3 : Byte) : Bus32 := b3 ++ b2 ++ b1 ++ b0

/-- Lane `i` of the bus data, `v[8i+7:8i]` (R53). -/
def lane (x : Bus32) (i : Nat) : Byte := x.extractLsb' (8 * i) 8

/-- The four bytes of a 4-byte write, lowest offset first (R214). -/
def lanes (x : Bus32) : List Byte := [lane x 0, lane x 1, lane x 2, lane x 3]

/-! ## Inside the engine (R52) -/

/-- The number whose big-endian encoding is `bs`. -/
def beNat (bs : List Byte) : Nat := bs.foldl (fun acc b => acc * 256 + b.toNat) 0

/-- `BE_n(x)`, the `n`-byte big-endian encoding (R10). -/
def beBytes : Nat → Nat → List Byte
  | 0, _ => []
  | n + 1, x => BitVec.ofNat 8 (x / 256 ^ n) :: beBytes n x

/-- A `w`-bit word from `WB` bytes, first byte most significant (R52, R148). -/
def beWord (v : Variant) (bs : List Byte) : Word v := BitVec.ofNat v.w (beNat bs)

/-- A byte of PADBUF; one never written is a free value (log 5). -/
def Engine.padByte (e : Engine v) (i : Nat) : Byte := (e.padBuf.read? i).getD (Config.padDraw v e.epoch i)

/-- A byte of MSG; one never written is a free value (R45, log 4). -/
def Engine.msgByte (e : Engine v) (i : Nat) : Byte := (e.msg.read? i).getD (Config.msgDraw v e.epoch i)

/-- `MSG[0..n-1]`. -/
def Engine.message (e : Engine v) (n : Nat) : List Byte := (List.range n).map e.msgByte

/-- `BlockWord(j, t)` (R148). -/
def Engine.blockWord (e : Engine v) (j t : Nat) : Word v :=
  beWord v ((List.range (wordBytes v)).map fun i => e.padByte (j * blockBytes v + t * wordBytes v + i))

/-! ## The digest string (R191, R193) -/

/-- Digit `d` of a word, `x[w-1-4d : w-4-4d]` (R191). -/
def hexDigit (x : BitVec w) (d : Nat) : BitVec 4 := x.extractLsb' (w - 4 - 4 * d) 4

/-- The ASCII code of a digit's lowercase character (R193). -/
def ascii (d : BitVec 4) : Byte :=
  if d.toNat ≤ 9 then BitVec.ofNat 8 (0x30 + d.toNat) else BitVec.ofNat 8 (0x61 + (d.toNat - 10))

/-- `HexWord(x)` as ASCII bytes: exactly `w/4` digits, most significant first (R191, R193). -/
def hexWord (x : BitVec w) : List Byte := (List.range (w / 4)).map fun d => ascii (hexDigit x d)

/-- The digest string: `HexWord(H[0]) ++ ... ++ HexWord(H[N-1])` (R190, R192). -/
def digestString (v : Variant) (h : Words8 v) : List Byte :=
  (h.toList.take (digestWords v)).flatMap hexWord

end Sys2Proof.Machine
end

