-- ==== Sys2Proof/Machine/Ops.lean ====
section
/-! DEFINITION. The shared operations of an instance: recording an interface error and clearing it, the window's regions and registers,
the command effects, the micro-operations of the datapath, the reset event, and how each is applied to the state. -/

namespace Sys2Proof.Machine

/-! ## Interface errors: the only "exception" of the machine (R251, R252, R254) -/

/-- The error codes (R251). -/
inductive IfaceError where
  | badCmd
  | busyCmd
  | busyWrite
  | lenRange
  | misaligned
  | badWidth
deriving DecidableEq, Repr

/-- The value an error leaves in `ERRCODE` (R251). -/
def IfaceError.code : IfaceError → BitVec 4
  | .badCmd => 1#4
  | .busyCmd => 2#4
  | .busyWrite => 3#4
  | .lenRange => 4#4
  | .misaligned => 5#4
  | .badWidth => 6#4

/-- `raise Err(c)` (R252): the first error's code is kept, and nothing else changes. -/
def Engine.raise (e : Engine v) (c : IfaceError) : Engine v :=
  if e.err then e else { e with err := true, errCode := c.code }

/-- `ERR <- 0; ERRCODE <- 0` (R255). -/
def Engine.clearError (e : Engine v) : Engine v := { e with err := false, errCode := 0#4 }

/-! ## The window (R51, R53, and the helpers of 44_host_interface.md) -/

/-- The regions of a window (R51). -/
inductive Region where
  | control
  | hexwin
  | reserved
  | msgwin
  | unmapped
deriving DecidableEq, Repr

/-- Region decode of a window offset (R51). -/
def region (p : Params) (off : Nat) : Region :=
  if off < 0x100 then .control
  else if off < 0x180 then .hexwin
  else if off < 0x1000 then .reserved
  else if off < 0x1000 + msgCap p then .msgwin
  else .unmapped

/-- `ByteAt(o)`: RESERVED and UNMAPPED read 0 (R41, R42, R45). -/
def Engine.byteAt (p : Params) (e : Engine v) (o : Nat) : Byte :=
  match region p o with
  | .hexwin => e.hex[o - 0x100]?.getD 0x00#8
  | .msgwin => e.msgByte (o - 0x1000)
  | .control => 0x00#8
  | .reserved => 0x00#8
  | .unmapped => 0x00#8

/-- Register `j` of the H window, `j = 0..15` (R40): for Engine-64 the high half of a word lies at the lower offset (R55). -/
def hWindow : (v : Variant) → Words8 v → Nat → Bus32
  | .e32, h, j => h[j]?.getD 0#32
  | .e64, h, j =>
    let word : BitVec 64 := h[j / 2]?.getD 0#64
    if j % 2 = 0 then word.extractLsb' 32 32 else word.extractLsb' 0 32

/-- `RegRead(off)` for an offset in CONTROL (R32 to R40, R42): `CMD`, the reserved offsets and everything not listed read 0. -/
def Engine.regRead (p : Params) (e : Engine v) (off : Nat) : Bus32 :=
  if off = 0x000 then idRegister v
  else if off = 0x008 then e.status
  else if off = 0x00C then e.msgLen
  else if off = 0x010 then e.nblk
  else if off = 0x014 then e.progress
  else if off = 0x018 then capRegister p
  else if 0x040 ≤ off ∧ off ≤ 0x07C then hWindow v e.h ((off - 0x040) / 4)
  else 0#32

/-! ## Commands (R217 to R222) -/

/-- START (R219). -/
def Engine.start (p : Params) (e : Engine v) : Engine v :=
  if e.busy then e.raise .busyCmd
  else if msgCap p < e.msgLen.toNat then e.raise .lenRange
  else { e with phase := 1#4 }

/-- CLEAR (R220): "MSG, MSG_LEN, A..Hw, W, PADBUF are not changed". -/
def Engine.clear (e : Engine v) : Engine v :=
  { e.clearError with
    phase := 0#4
    h := iv v
    hex := Vector.replicate 128 0x00#8
    nblk := 0#32
    blk := 0#32
    rnd := 0#8
    padLen := 0#32 }

/-- `ExecCmd(v)` (R217): a reserved word is found before anything else (R222, R253). -/
def Engine.execCmd (p : Params) (e : Engine v) (word : Bus32) : Engine v :=
  if commandRsv word ≠ 0#28 ∨ 4 ≤ (commandOp word).toNat then e.raise .badCmd
  else if commandOp word = 0#4 then e
  else if commandOp word = 1#4 then e.start p
  else if commandOp word = 2#4 then e.clear
  else e.clearError

/-! ## Bus transactions (R212 to R216) -/

/-- `off mod 4 = 0` (R56). -/
def aligned (off : Bus32) : Bool := off.toNat % 4 == 0

/-- RD32 (R212): the instance after the read, and the value returned. -/
def Engine.rd32 (p : Params) (e : Engine v) (off : Bus32) : Engine v × Bus32 :=
  let o := off.toNat
  if !aligned off then (e.raise .misaligned, 0#32)
  else if region p o = .control then (e, e.regRead p o)
  else (e, ofLanes (e.byteAt p o) (e.byteAt p (o + 1)) (e.byteAt p (o + 2)) (e.byteAt p (o + 3)))

/-- RD8 (R213): the byte is zero-extended to the bus. -/
def Engine.rd8 (p : Params) (e : Engine v) (off : Bus32) : Engine v × Bus32 :=
  if region p off.toNat = .control then (e.raise .badWidth, 0#32)
  else (e, (e.byteAt p off.toNat).zeroExtend 32)

/-- Store bytes in MSG from a window offset of MSGWIN on (R45). -/
def Engine.storeMsg (e : Engine v) (off : Nat) (bs : List Byte) : Engine v :=
  { e with msg := e.msg.writeRange (off - 0x1000) bs }

/-- WR32 (R214). -/
def Engine.wr32 (p : Params) (e : Engine v) (off wdata : Bus32) : Engine v :=
  if !aligned off then e.raise .misaligned
  else if (region p off.toNat = .msgwin ∨ off = 0x00C#32) ∧ e.busy = true then e.raise .busyWrite
  else if off = 0x00C#32 then { e with msgLen := wdata }
  else if off = 0x004#32 then e.execCmd p wdata
  else if region p off.toNat = .msgwin then e.storeMsg off.toNat (lanes wdata)
  else e

/-- WR8 (R215): only `WDATA[7:0]` is used. -/
def Engine.wr8 (p : Params) (e : Engine v) (off wdata : Bus32) : Engine v :=
  match region p off.toNat with
  | .control => e.raise .badWidth
  | .msgwin => if e.busy then e.raise .busyWrite else e.storeMsg off.toNat [lane wdata 0]
  | .hexwin => e
  | .reserved => e
  | .unmapped => e

/-! ## Micro-operations -/

/-- INIT (R160). -/
def Engine.init (e : Engine v) : Engine v :=
  { e with h := iv v, blk := 0#32, rnd := 0#8, nblk := 0#32, phase := 2#4 }

/-- The padded message as bytes (R145): the message, 0x80, zeros, and the bit length in `LB` bytes. -/
def paddedBytes (v : Variant) (m : List Byte) : List Byte :=
  m ++ 0x80#8 :: List.replicate (paddedLen v m.length - lenBytes v - m.length - 1) 0x00#8
    ++ beBytes (lenBytes v) (8 * m.length)

/-- PAD (R145): it writes `PADBUF[0..P-1]`; the bytes from `P` on are kept. -/
def Engine.pad (e : Engine v) : Engine v :=
  let n := e.msgLen.toNat
  { e with
    padBuf := e.padBuf.writeRange 0 (paddedBytes v (e.message n))
    padLen := BitVec.ofNat 32 (paddedLen v n)
    phase := 3#4 }

/-- SEGMENT (R149). -/
def Engine.segment (e : Engine v) : Engine v :=
  { e with nblk := BitVec.ofNat 32 (e.padLen.toNat / blockBytes v), blk := 0#32, phase := 4#4 }

/-- `W[t]` for a `t >= 16`, from the words before it, latest first: `acc[i]` is `W[t-1-i]` (R165). -/
def schedNext (v : Variant) (acc : List (Word v)) : Word v :=
  acc.getD 15 0 + ssig0 v (acc.getD 14 0) + acc.getD 6 0 + ssig1 v (acc.getD 1 0)

/-- `n` more schedule words on top of those in `acc`, latest first (R165: "the loop runs in increasing t"). -/
def schedExtend (v : Variant) : Nat → List (Word v) → List (Word v)
  | 0, acc => acc
  | n + 1, acc => schedExtend v n (schedNext v acc :: acc)

theorem schedExtend_length (v : Variant) (n : Nat) (acc : List (Word v)) :
    (schedExtend v n acc).length = n + acc.length := by
  induction n generalizing acc with
  | zero => simp [schedExtend]
  | succ n ih => simp [schedExtend, ih]; omega

/-- The schedule `W[0..R-1]` of a block of 16 words (R165). -/
def schedule (v : Variant) (block : Fin 16 → Word v) : Sched v :=
  ⟨(schedExtend v (v.rounds - 16) (List.ofFn block).reverse).reverse.toArray, by
    simp only [List.size_toArray, List.length_reverse, schedExtend_length, List.length_ofFn]
    cases v <;> rfl⟩

/-- The working registers loaded from `H` (R165). -/
def Working.ofWords (h : Words8 v) : Working v where
  a := h[0]
  b := h[1]
  c := h[2]
  d := h[3]
  e := h[4]
  f := h[5]
  g := h[6]
  hw := h[7]

/-- EXPAND (R165). -/
def Engine.expand (e : Engine v) : Engine v :=
  { e with
    sched := schedule v (fun t => e.blockWord e.blk.toNat t.val)
    work := Working.ofWords e.h
    rnd := 0#8
    phase := 5#4 }

/-- One round on the working registers with `K[t]` and `W[t]`: "all right-hand sides use the values before this step" (R166). -/
def Working.round (r : Working v) (kt wt : Word v) : Working v :=
  let t1 := r.hw + bsig1 v r.e + ch r.e r.f r.g + kt + wt
  let t2 := bsig0 v r.a + maj r.a r.b r.c
  { a := t1 + t2, b := r.a, c := r.b, d := r.c, e := r.d + t1, f := r.e, g := r.f, hw := r.g }

/-- `W[t]`; past the schedule a free value, which no run reads (log 10). -/
def Engine.schedWord (e : Engine v) (t : Nat) : Word v := e.sched[t]?.getD (Config.schedBeyond v t)

/-- ROUND (R166). -/
def Engine.round (e : Engine v) : Engine v :=
  let t := e.rnd.toNat
  { e with
    work := e.work.round (roundConst v t) (e.schedWord t)
    rnd := e.rnd + 1#8
    phase := if t + 1 = v.rounds then 6#4 else 5#4 }

/-- The eight sums of UPDATE, `(h0,a) ... (h7,h)` (R167). -/
def addWorking (h : Words8 v) (r : Working v) : Words8 v :=
  #v[h[0] + r.a, h[1] + r.b, h[2] + r.c, h[3] + r.d, h[4] + r.e, h[5] + r.f, h[6] + r.g, h[7] + r.hw]

/-- UPDATE (R167). -/
def Engine.update (e : Engine v) : Engine v :=
  let b := e.blk + 1#32
  { e with
    h := addWorking e.h e.work
    blk := b
    phase := if b.toNat < e.nblk.toNat then 4#4 else 7#4 }

/-- The contents ASSEMBLE gives `HEX`: the digest string, then 0x00 up to byte 127 (R190). -/
def hexBuffer (v : Variant) (h : Words8 v) : Vector Byte 128 :=
  Vector.ofFn fun i => (digestString v h)[i.val]?.getD 0x00#8

/-- ASSEMBLE (R190). -/
def Engine.assemble (e : Engine v) : Engine v := { e with hex := hexBuffer v e.h, phase := 8#4 }

/-! ## Reset event (R280) -/

/-- The working registers drawn at a reset event (log 7). -/
def Working.drawn (v : Variant) (epoch : Nat) : Working v where
  a := Config.workDraw v epoch 0
  b := Config.workDraw v epoch 1
  c := Config.workDraw v epoch 2
  d := Config.workDraw v epoch 3
  e := Config.workDraw v epoch 4
  f := Config.workDraw v epoch 5
  g := Config.workDraw v epoch 6
  hw := Config.workDraw v epoch 7

/-- RESET (R280): the values of R48, and a new draw of everything unspecified. -/
def Engine.resetEvent (e : Engine v) : Engine v :=
  Engine.atReset v (e.epoch + 1) (Working.drawn v (e.epoch + 1))
    (Vector.ofFn fun t => Config.schedDraw v (e.epoch + 1) t.val)

/-! ## Applied to the state -/

/-- Instance `v` changes by `f`; nothing else does (R3, R260). -/
def State.modify (s : State) (v : Variant) (f : Engine v → Engine v) : State := s.setEngine v (f (s.engine v))

/-- A read of instance `v`'s window: the instance changes as `f` says, and the host gets the value `f` returns (log 8). -/
def State.read (s : State) (v : Variant) (f : Engine v → Engine v × Bus32) : State :=
  (s.setEngine v (f (s.engine v)).1).setRdata v (f (s.engine v)).2

end Sys2Proof.Machine
end

