-- ==== Sys2Proof/Machine/Bus.lean ====
section
/-! DEFINITION. The meanings of the bus instructions (R212 to R216). -/

namespace Sys2Proof.Machine

/-- RD8 (R213). -/
def execRd8 (v : Variant) (off : Bus32) (s : State) : Host.Outcome State Fault Refusal :=
  .next (s.read v (Engine.rd8 s.par · off))

/-- RD32 (R212). -/
def execRd32 (v : Variant) (off : Bus32) (s : State) : Host.Outcome State Fault Refusal :=
  .next (s.read v (Engine.rd32 s.par · off))

/-- WR8 (R215). -/
def execWr8 (v : Variant) (off wdata : Bus32) (s : State) : Host.Outcome State Fault Refusal :=
  .next (s.modify v (Engine.wr8 s.par · off wdata))

/-- WR32 (R214), the command of a write to `CMD` included (R217). -/
def execWr32 (v : Variant) (off wdata : Bus32) (s : State) : Host.Outcome State Fault Refusal :=
  .next (s.modify v (Engine.wr32 s.par · off wdata))

/-- A read of the reserved size code 1 (R216): BAD_WIDTH, "checked before alignment and region"; it returns 0. -/
def execRd16 (v : Variant) (_off : Bus32) (s : State) : Host.Outcome State Fault Refusal :=
  .next (s.read v fun e => (e.raise .badWidth, 0#32))

/-- A read of the reserved size code 3 (R216): BAD_WIDTH, "checked before alignment and region"; it returns 0. -/
def execRdx (v : Variant) (_off : Bus32) (s : State) : Host.Outcome State Fault Refusal :=
  .next (s.read v fun e => (e.raise .badWidth, 0#32))

/-- A write of the reserved size code 1 (R216): BAD_WIDTH, and the write is dropped. -/
def execWr16 (v : Variant) (_off _wdata : Bus32) (s : State) : Host.Outcome State Fault Refusal :=
  .next (s.modify v (Engine.raise · .badWidth))

/-- A write of the reserved size code 3 (R216): BAD_WIDTH, and the write is dropped. -/
def execWrx (v : Variant) (_off _wdata : Bus32) (s : State) : Host.Outcome State Fault Refusal :=
  .next (s.modify v (Engine.raise · .badWidth))

end Sys2Proof.Machine
end

