-- ==== Sys2Proof/Machine/Commands.lean ====
section
/-! DEFINITION. The meanings of the command words (R217 to R222). A command and its effects are one atomic step. -/

namespace Sys2Proof.Machine

/-- NOP (R218): no effect, in every phase. -/
def execNop (_v : Variant) (s : State) : Host.Outcome State Fault Refusal :=
  .next s

/-- START (R219). -/
def execStart (v : Variant) (s : State) : Host.Outcome State Fault Refusal :=
  .next (s.modify v (Engine.start s.par))

/-- CLEAR (R220). -/
def execClear (v : Variant) (s : State) : Host.Outcome State Fault Refusal :=
  .next (s.modify v Engine.clear)

/-- CLRERR (R221): accepted in every phase; a run in progress goes on. -/
def execClrErr (v : Variant) (s : State) : Host.Outcome State Fault Refusal :=
  .next (s.modify v Engine.clearError)

/-- Reserved command words with `RSV = 0` and `OP` 4 to 7 (R222): BAD_CMD, no other effect. -/
def execCmdRsvOp4to7 (v : Variant) (_low : BitVec 2) (s : State) : Host.Outcome State Fault Refusal :=
  .next (s.modify v (Engine.raise · .badCmd))

/-- Reserved command words with `RSV = 0` and `OP` 8 to 15 (R222): BAD_CMD, no other effect. -/
def execCmdRsvOp8to15 (v : Variant) (_low : BitVec 3) (s : State) : Host.Outcome State Fault Refusal :=
  .next (s.modify v (Engine.raise · .badCmd))

/-- Reserved command words with `RSV != 0` (R222): BAD_CMD, no other effect. -/
def execCmdRsvHigh (v : Variant) (_rsv : BitVec 28) (_op : BitVec 4) (s : State) : Host.Outcome State Fault Refusal :=
  .next (s.modify v (Engine.raise · .badCmd))

end Sys2Proof.Machine
end

