-- ==== Sys2Proof/Machine/MicroOps.lean ====
section
/-! DEFINITION. The meanings of the phase codes (R211, R86, R87): the micro-operations, and the codes in which the engine has no step. -/

namespace Sys2Proof.Machine

/-- IDLE (R211): "the engine has no step; it waits for a command". -/
def execIdle (_v : Variant) (s : State) : Host.Outcome State Fault Refusal :=
  .next s

/-- INIT (R160). -/
def execInit (v : Variant) (s : State) : Host.Outcome State Fault Refusal :=
  .next (s.modify v Engine.init)

/-- PAD (R145). -/
def execPad (v : Variant) (s : State) : Host.Outcome State Fault Refusal :=
  .next (s.modify v Engine.pad)

/-- SEGMENT (R149). -/
def execSegment (v : Variant) (s : State) : Host.Outcome State Fault Refusal :=
  .next (s.modify v Engine.segment)

/-- EXPAND (R165). -/
def execExpand (v : Variant) (s : State) : Host.Outcome State Fault Refusal :=
  .next (s.modify v Engine.expand)

/-- ROUND (R166). -/
def execRound (v : Variant) (s : State) : Host.Outcome State Fault Refusal :=
  .next (s.modify v Engine.round)

/-- UPDATE (R167). -/
def execUpdate (v : Variant) (s : State) : Host.Outcome State Fault Refusal :=
  .next (s.modify v Engine.update)

/-- ASSEMBLE (R190). -/
def execAssemble (v : Variant) (s : State) : Host.Outcome State Fault Refusal :=
  .next (s.modify v Engine.assemble)

/-- DONE (R211): the engine has no step; it waits for a command. -/
def execDone (_v : Variant) (s : State) : Host.Outcome State Fault Refusal :=
  .next s

/-- PHASE code 9 (R87, U8, log 9): no run reaches it; the engine takes no step. -/
def execPhaseRsv9 (_v : Variant) (s : State) : Host.Outcome State Fault Refusal :=
  .next s

/-- PHASE code 10 (R87, U8, log 9): no run reaches it; the engine takes no step. -/
def execPhaseRsv10 (_v : Variant) (s : State) : Host.Outcome State Fault Refusal :=
  .next s

/-- PHASE code 11 (R87, U8, log 9): no run reaches it; the engine takes no step. -/
def execPhaseRsv11 (_v : Variant) (s : State) : Host.Outcome State Fault Refusal :=
  .next s

/-- PHASE code 12 (R87, U8, log 9): no run reaches it; the engine takes no step. -/
def execPhaseRsv12 (_v : Variant) (s : State) : Host.Outcome State Fault Refusal :=
  .next s

/-- PHASE code 13 (R87, U8, log 9): no run reaches it; the engine takes no step. -/
def execPhaseRsv13 (_v : Variant) (s : State) : Host.Outcome State Fault Refusal :=
  .next s

/-- PHASE code 14 (R87, U8, log 9): no run reaches it; the engine takes no step. -/
def execPhaseRsv14 (_v : Variant) (s : State) : Host.Outcome State Fault Refusal :=
  .next s

/-- PHASE code 15 (R87, U8, log 9): no run reaches it; the engine takes no step. -/
def execPhaseRsv15 (_v : Variant) (s : State) : Host.Outcome State Fault Refusal :=
  .next s

end Sys2Proof.Machine
end

