-- ==== Sys2Proof/Machine/Dispatch.lean ====
section
/-! DEFINITION. One arm per instruction: its meaning. -/

namespace Sys2Proof.Machine

/-- What an instruction does. -/
def exec (i : Instr) (s : State) : Host.Outcome State Fault Refusal :=
  match i with
  | .nop v => Sys2Proof.Machine.execNop v s
  | .start v => Sys2Proof.Machine.execStart v s
  | .clear v => Sys2Proof.Machine.execClear v s
  | .clrErr v => Sys2Proof.Machine.execClrErr v s
  | .cmdRsvOp4to7 v low => Sys2Proof.Machine.execCmdRsvOp4to7 v low s
  | .cmdRsvOp8to15 v low => Sys2Proof.Machine.execCmdRsvOp8to15 v low s
  | .cmdRsvHigh v rsv op => Sys2Proof.Machine.execCmdRsvHigh v rsv op s
  | .rd8 v off => Sys2Proof.Machine.execRd8 v off s
  | .rd32 v off => Sys2Proof.Machine.execRd32 v off s
  | .wr8 v off wdata => Sys2Proof.Machine.execWr8 v off wdata s
  | .wr32 v off wdata => Sys2Proof.Machine.execWr32 v off wdata s
  | .rd16 v off => Sys2Proof.Machine.execRd16 v off s
  | .rdx v off => Sys2Proof.Machine.execRdx v off s
  | .wr16 v off wdata => Sys2Proof.Machine.execWr16 v off wdata s
  | .wrx v off wdata => Sys2Proof.Machine.execWrx v off wdata s
  | .idle v => Sys2Proof.Machine.execIdle v s
  | .init v => Sys2Proof.Machine.execInit v s
  | .pad v => Sys2Proof.Machine.execPad v s
  | .segment v => Sys2Proof.Machine.execSegment v s
  | .expand v => Sys2Proof.Machine.execExpand v s
  | .round v => Sys2Proof.Machine.execRound v s
  | .update v => Sys2Proof.Machine.execUpdate v s
  | .assemble v => Sys2Proof.Machine.execAssemble v s
  | .done v => Sys2Proof.Machine.execDone v s
  | .phaseRsv9 v => Sys2Proof.Machine.execPhaseRsv9 v s
  | .phaseRsv10 v => Sys2Proof.Machine.execPhaseRsv10 v s
  | .phaseRsv11 v => Sys2Proof.Machine.execPhaseRsv11 v s
  | .phaseRsv12 v => Sys2Proof.Machine.execPhaseRsv12 v s
  | .phaseRsv13 v => Sys2Proof.Machine.execPhaseRsv13 v s
  | .phaseRsv14 v => Sys2Proof.Machine.execPhaseRsv14 v s
  | .phaseRsv15 v => Sys2Proof.Machine.execPhaseRsv15 v s

end Sys2Proof.Machine
end

