-- ==== Sys2Proof/Machine/Fetch.lean ====
section
/-! DEFINITION. What the next step is (R210): the head of the schedule, or the engine that goes on when the schedule is empty; and how a
word of the opcode table is placed there. -/

namespace Sys2Proof.Machine

/-- What the next step does: the reset input of an instance (R280), or the instruction of a code at an instance. -/
inductive Event where
  | reset (v : Variant)
  | code  (v : Variant) (c : Code)
deriving DecidableEq, Repr

/-- With nothing scheduled: the busy instance; if both are busy, the one a free value names (U4, log 3). -/
def idleEngine (s : State) : Variant :=
  if s.e32.busy && s.e64.busy then (if Config.enginePick s.picks then .e64 else .e32)
  else if s.e64.busy then .e64
  else .e32

/-- The code of instance `v`'s next micro-step: its `PHASE` (R80, R211). -/
def State.phaseCode (s : State) (v : Variant) : Code := .phase (s.engine v).phase

/-- The next event, and the state with it taken off the schedule. -/
def nextEvent (s : State) : Event × State :=
  match s.inbox with
  | [] => (.code (idleEngine s) (s.phaseCode (idleEngine s)), { s with picks := s.picks + 1 })
  | .engine v :: rest => (.code v (s.phaseCode v), { s with inbox := rest })
  | .bus v access :: rest => (.code v access.code, { s with inbox := rest })
  | .reset v :: rest => (.reset v, { s with inbox := rest })

/-- `s` with a code placed so that the next step runs it at the Engine-32 instance (log 14): a command word as a WR32 to `CMD`, a bus
transaction as the next stimulus, a phase code in `PHASE` with an engine step as the next stimulus. -/
def State.placeCode (s : State) : Code → State
  | .command word => { s with inbox := .bus .e32 (.write 2#2 0x004#32 word) :: s.inbox }
  | .bus access => { s with inbox := .bus .e32 access :: s.inbox }
  | .phase code => { s with e32 := { s.e32 with phase := code }, inbox := .engine .e32 :: s.inbox }

end Sys2Proof.Machine
end

