-- ==== Sys2Proof/Machine/Step.lean ====
section
/-! DEFINITION. One atomic step (R210). -/

namespace Sys2Proof.Machine

/-- One atomic step: the reset of an instance (R280), or the instruction that the next event's code decodes to. -/
def step (s : State) : Host.Outcome State Fault Refusal :=
  match nextEvent s with
  | (.reset v, t) => .next (t.modify v Engine.resetEvent)
  | (.code v c, t) => exec (decode v c) t

/-- `s` with a word of the opcode table placed so that the next step runs its instruction (log 14). -/
def State.withFetchWord (s : State) (nbits w : Nat) : State :=
  match codeOfTableWord nbits w with
  | some code => s.placeCode code
  | none => s

end Sys2Proof.Machine
end

