-- ==== Sys2Proof/Machine/Script.lean ====
section
/-! DEFINITION. The host-script pseudo-instructions (R90 to R95) as lists of stimuli. The host's own control flow is outside the spec (R20):
WAIT_DONE stands here as one turn of its loop. -/

namespace Sys2Proof.Machine.Script

/-- `RD8 <off>` (R90). -/
def rd8 (v : Variant) (off : Nat) : Stimulus := .bus v (.read 0#2 (BitVec.ofNat 32 off))

/-- `RD32 <off>` (R90). -/
def rd32 (v : Variant) (off : Nat) : Stimulus := .bus v (.read 2#2 (BitVec.ofNat 32 off))

/-- `WR8 <off>, <data8>` (R90). -/
def wr8 (v : Variant) (off : Nat) (data : Byte) : Stimulus := .bus v (.write 0#2 (BitVec.ofNat 32 off) (data.zeroExtend 32))

/-- `WR32 <off>, <data32>` (R90). -/
def wr32 (v : Variant) (off : Nat) (data : Bus32) : Stimulus := .bus v (.write 2#2 (BitVec.ofNat 32 off) data)

/-- `CMD <name>`: "expands to WR32 0x004, <word>" (R91). -/
def cmd (v : Variant) (word : Bus32) : Stimulus := wr32 v 0x004 word

/-- One turn of the loop of `WAIT_DONE`: `s <- RD32 0x008` (R92). -/
def pollStatus (v : Variant) : Stimulus := rd32 v 0x008

/-- `WAIT_DONE` in the schedule of 95_test_vectors.md section 3: the engine takes its `n` steps before the one read of STATUS. -/
def waitDone (v : Variant) (n : Nat) : List Stimulus := List.replicate n (.engine v) ++ [pollStatus v]

/-- The word and byte writes of `LOADMSG`, from message index `i` on (R93). -/
def loadFrom (v : Variant) : Nat → List Byte → List Stimulus
  | i, b0 :: b1 :: b2 :: b3 :: rest => wr32 v (0x1000 + i) (ofLanes b0 b1 b2 b3) :: loadFrom v (i + 4) rest
  | i, [b0, b1, b2] => [wr8 v (0x1000 + i) b0, wr8 v (0x1000 + i + 1) b1, wr8 v (0x1000 + i + 2) b2]
  | i, [b0, b1] => [wr8 v (0x1000 + i) b0, wr8 v (0x1000 + i + 1) b1]
  | i, [b0] => [wr8 v (0x1000 + i) b0]
  | _, [] => []

/-- `LOADMSG <bytes>` (R93). -/
def loadMsg (v : Variant) (m : List Byte) : List Stimulus :=
  loadFrom v 0 m ++ [wr32 v 0x00C (BitVec.ofNat 32 m.length)]

/-- `READHEX` (R94). -/
def readHex (v : Variant) : List Stimulus := (List.range (hexLen v)).map fun i => rd8 v (0x100 + i)

/-- `HASH <bytes>` up to its `READHEX`: `LOADMSG <bytes>; CMD START; WAIT_DONE` (R95), with the engine's `n` steps in WAIT_DONE. -/
def hashRun (v : Variant) (m : List Byte) (n : Nat) : List Stimulus :=
  loadMsg v m ++ cmd v 0x1#32 :: waitDone v n

end Sys2Proof.Machine.Script
end

