-- ==== Sys2Proof/Machine/Reference.lean ====
section
/-! DEFINITION. What a hash run is to compute, apart from the machine: the padded bit sequence (R141 to R143), its words and blocks (R146),
the compression of a message (R168), the digest (R224) and the length of a run (R225). Claims compare the machine with these. -/

namespace Sys2Proof.Machine.Reference

/-- A byte's 8 bits, most significant first (R142). -/
def bitsOfByte (b : Byte) : List Bool := (List.range 8).map fun i => b.getLsbD (7 - i)

/-- `bits(M)` (R142). -/
def bitsOf (m : List Byte) : List Bool := m.flatMap bitsOfByte

/-- `LEN_L(x)`: `x` in exactly `L` bits, most significant first (R143). -/
def lenField (v : Variant) (x : Nat) : List Bool := (List.range (lenBits v)).map fun i => x.testBit (lenBits v - 1 - i)

/-- The number `k` of zero bits for a message of `n` bytes: the least with `(8n + 1 + k) mod B = B - L` (R141). -/
def zeroBits (v : Variant) (n : Nat) : Nat := (blockBits v - lenBits v + (blockBits v - (8 * n + 1) % blockBits v)) % blockBits v

/-- `PBS(M) = bits(M) ++ [1] ++ zeros(k) ++ LEN_L(8n)` (R141). -/
def paddedBits (v : Variant) (m : List Byte) : List Bool :=
  bitsOf m ++ true :: List.replicate (zeroBits v m.length) false ++ lenField v (8 * m.length)

/-- The number whose bits, first most significant, are `bs`. -/
def natOfBits (bs : List Bool) : Nat := bs.foldl (fun acc b => 2 * acc + b.toNat) 0

/-- Word `q` of a bit sequence: bits `q*w .. q*w + w - 1`, the first most significant (R146). -/
def wordOfBits (v : Variant) (bs : List Bool) (q : Nat) : Word v := BitVec.ofNat v.w (natOfBits ((bs.drop (q * v.w)).take v.w))

/-- Block `j` of a message: words `16j .. 16j + 15` of its padded bit sequence (R146). -/
def block (v : Variant) (m : List Byte) (j : Nat) : Fin 16 → Word v := fun t => wordOfBits v (paddedBits v m) (16 * j + t.val)

/-- The number of blocks of a message of `n` bytes, `P(n) / BB` (R147). -/
def blockCount (v : Variant) (n : Nat) : Nat := paddedLen v n / blockBytes v

/-- `n` rounds, from round 0 on, on the working registers with a schedule (R166). -/
def rounds (v : Variant) (w : Sched v) (r : Working v) : Nat → Working v
  | 0 => r
  | n + 1 => (rounds v w r n).round (roundConst v n) (w[n]?.getD 0)

/-- `Compress(S, j)` for a block (R168): schedule, `R` rounds from the words of `S`, and the eight sums. -/
def compress (v : Variant) (s : Words8 v) (b : Fin 16 → Word v) : Words8 v :=
  addWorking s (rounds v (schedule v b) (Working.ofWords s) v.rounds)

/-- `S_j`: `S_0 = IV`, `S_{j+1} = Compress(S_j, j)` (R168). -/
def chain (v : Variant) (m : List Byte) : Nat → Words8 v
  | 0 => iv v
  | j + 1 => compress v (chain v m j) (block v m j)

/-- `S_NBLK`, the State after the message's last block (R168, R224). -/
def finalState (v : Variant) (m : List Byte) : Words8 v := chain v m (blockCount v m.length)

/-- The digest string of a message (R224). -/
def digest (v : Variant) (m : List Byte) : List Byte := digestString v (finalState v m)

/-- `4 + NBLK * (R + 2)`, the micro-steps of a run for a message of `n` bytes (R225). -/
def runLength (v : Variant) (n : Nat) : Nat := 4 + blockCount v n * (v.rounds + 2)

end Sys2Proof.Machine.Reference
end

