-- ==== Sys2Proof/Safety.lean ====
section
/-! DEFINITION. What holds of an instance in every run, and the classes of stimuli that claims speak of. -/

namespace Sys2Proof.Machine

/-- R31, R251: `ERRCODE` is 0 without an error and one of the codes 1 to 6 with one. -/
def Engine.errorLegal (e : Engine v) : Prop :=
  if e.err then 1 ≤ e.errCode.toNat ∧ e.errCode.toNat ≤ 6 else e.errCode = 0#4

/-- A lowercase hexadecimal character (R193). -/
def isHexChar (b : Byte) : Prop := (0x30 ≤ b.toNat ∧ b.toNat ≤ 0x39) ∨ (0x61 ≤ b.toNat ∧ b.toNat ≤ 0x66)

/-- R43, R194: `HEX` is all 0x00, or a digest string followed by 0x00. -/
def Engine.hexLegal (e : Engine v) : Prop :=
  (∀ i : Fin 128, e.hex[i] = 0x00#8) ∨
    ((∀ i : Fin 128, i.val < hexLen v → isHexChar e.hex[i]) ∧ (∀ i : Fin 128, hexLen v ≤ i.val → e.hex[i] = 0x00#8))

/-- The elements CLEAR and reset give their reset value and that keep it in IDLE (R48, R220, R281). -/
def Engine.freshRun (e : Engine v) : Prop :=
  e.h = iv v ∧ e.hex = Vector.replicate 128 0x00#8 ∧ e.nblk = 0#32 ∧ e.blk = 0#32 ∧ e.rnd = 0#8 ∧ e.padLen = 0#32

/-- The counters belong to the message length of the run (R145, R149): `PADLEN = P(MSG_LEN)` and `NBLK = PADLEN / BB`. -/
def Engine.countersSet (e : Engine v) : Prop :=
  e.padLen.toNat = paddedLen v e.msgLen.toNat ∧ e.nblk.toNat = paddedLen v e.msgLen.toNat / blockBytes v

/-- What `PHASE` says of the sequencer's registers (R223). -/
def Engine.sequenced (e : Engine v) : Prop :=
  (e.phase = 0#4 → e.freshRun) ∧
  (e.phase = 2#4 → e.h = iv v ∧ e.blk = 0#32 ∧ e.rnd = 0#8 ∧ e.nblk = 0#32) ∧
  (e.phase = 3#4 → e.h = iv v ∧ e.blk = 0#32 ∧ e.rnd = 0#8 ∧ e.nblk = 0#32 ∧ e.padLen.toNat = paddedLen v e.msgLen.toNat) ∧
  (e.phase = 4#4 → e.countersSet ∧ e.blk.toNat < e.nblk.toNat) ∧
  (e.phase = 5#4 → e.countersSet ∧ e.blk.toNat < e.nblk.toNat ∧ e.rnd.toNat < v.rounds) ∧
  (e.phase = 6#4 → e.countersSet ∧ e.blk.toNat < e.nblk.toNat ∧ e.rnd.toNat = v.rounds) ∧
  (e.phase = 7#4 → e.countersSet ∧ e.blk = e.nblk ∧ e.rnd.toNat = v.rounds) ∧
  (e.phase = 8#4 → e.hex = hexBuffer v e.h ∧ e.blk = e.nblk ∧ e.rnd.toNat = v.rounds ∧ 1 ≤ e.nblk.toNat ∧
    e.padLen.toNat = e.nblk.toNat * blockBytes v)

/-- The invariant of an instance. -/
structure Engine.Inv (p : Params) (e : Engine v) : Prop where
  /-- "Codes 9 to 15 are never written" (R24, R87) -/
  phase : e.phase.toNat ≤ 8
  error : e.errorLegal
  hex : e.hexLegal
  msgForm : e.msg.wf
  msgBound : ∀ c ∈ e.msg, c.1 < msgCap p
  padForm : e.padBuf.wf
  /-- PADBUF has `PAD_CAP` bytes (R44) -/
  padBound : ∀ c ∈ e.padBuf, c.1 < padCap p v
  /-- `n <= MSG_CAP` "holds whenever PAD runs" (R140) -/
  length : e.busy = true → e.msgLen.toNat ≤ msgCap p
  /-- BLK never passes NBLK, and "BLK never exceeds 2^24 - 1" (R25, R38) -/
  blocks : e.blk.toNat ≤ e.nblk.toNat ∧ e.nblk.toNat ≤ 2 ^ 18 + 1
  /-- "It is in the range 0 to R" (R26) -/
  round : e.rnd.toNat ≤ v.rounds
  sequenced : e.sequenced

/-- The invariant of the machine: of both instances. -/
def State.Inv (s : State) : Prop := s.e32.Inv s.par ∧ s.e64.Inv s.par

/-- PADBUF holds the padded message (R145): its bytes below PADLEN are those PAD writes for `m`. -/
def Engine.holdsPadded (e : Engine v) (m : List Byte) : Prop := ∀ i, i < paddedLen v m.length → some (e.padByte i) = (paddedBytes v m)[i]?

/-- What the host sees of a run's result (R224): DONE, the final State and the digest in `HEX`. -/
def Engine.holdsDigest (e : Engine v) (m : List Byte) : Prop :=
  e.phase = 8#4 ∧ e.h = Reference.finalState v m ∧ e.hex = hexBuffer v (Reference.finalState v m) ∧
    e.hex.toList.take (hexLen v) = Reference.digest v m

/-- The message of a run: the `MSG_LEN` bytes the lockout keeps while it goes on (R283). -/
def Engine.runMessage (e : Engine v) : List Byte := e.message e.msgLen.toNat

/-- How far a run of an instance has come, as PHASE, BLK and RND say (R168, R223): `H` is the chain of compressions up to block BLK, `W` the
schedule of that block and `A..Hw` the registers after RND rounds. -/
structure Engine.OnCourse (p : Params) (e : Engine v) : Prop where
  /-- R140 -/
  length : e.busy = true → e.msgLen.toNat ≤ msgCap p
  /-- INIT has run (R160) -/
  started : e.phase = 2#4 ∨ e.phase = 3#4 → e.h = iv v
  /-- PAD has run (R145) -/
  padLen : e.phase = 3#4 → e.padLen.toNat = paddedLen v e.msgLen.toNat
  padded : 3 ≤ e.phase.toNat → e.phase.toNat ≤ 6 → e.holdsPadded e.runMessage
  /-- SEGMENT has run, and BLK is a block of the message with the blocks before it compressed (R149, R168) -/
  chained : 4 ≤ e.phase.toNat → e.phase.toNat ≤ 6 →
    e.countersSet ∧ e.blk.toNat < e.nblk.toNat ∧ e.h = Reference.chain v e.runMessage e.blk.toNat
  /-- EXPAND has run, and RND rounds (R165, R166) -/
  rounds : e.phase = 5#4 ∨ e.phase = 6#4 →
    e.sched = schedule v (Reference.block v e.runMessage e.blk.toNat) ∧
      e.work = Reference.rounds v e.sched (Working.ofWords e.h) e.rnd.toNat
  roundNext : e.phase = 5#4 → e.rnd.toNat < v.rounds
  roundLast : e.phase = 6#4 → e.rnd.toNat = v.rounds
  /-- every block has been compressed (R167, R168) -/
  compressed : e.phase = 7#4 → e.h = Reference.finalState v e.runMessage
  /-- ASSEMBLE has run (R224); the host may have written MSG and MSG_LEN since -/
  done : e.phase = 8#4 → ∃ m : List Byte, m.length ≤ msgCap p ∧ e.holdsDigest m

/-- Both instances are on course. -/
def State.OnCourse (s : State) : Prop := s.e32.OnCourse s.par ∧ s.e64.OnCourse s.par

/-- A stimulus that ends a run of instance `v` early: its reset, or a CLEAR written to its CMD (R223, R62). -/
def Stimulus.aborts (v : Variant) (x : Stimulus) : Prop :=
  x = .reset v ∨ x = .bus v (.write 2#2 0x004#32 0x2#32)

/-- What an access to an instance may change beside the instance: the answer of its last read (R3, R58). -/
def State.onlyInstance (s t : State) (v : Variant) : Prop := t = (s.setEngine v (t.engine v)).setRdata v (t.rdata v)

/-- R253: the error a bus access raises, the checks in the rule's order; none if every check passes. -/
def accessError (p : Params) (e : Engine v) : BusAccess → Option IfaceError
  | .read size off =>
    if size = 1#2 ∨ size = 3#2 then some .badWidth
    else if size = 2#2 ∧ off.toNat % 4 ≠ 0 then some .misaligned
    else if size = 0#2 ∧ off.toNat < 0x100 then some .badWidth
    else none
  | .write size off wdata =>
    if size = 1#2 ∨ size = 3#2 then some .badWidth
    else if size = 2#2 ∧ off.toNat % 4 ≠ 0 then some .misaligned
    else if size = 0#2 ∧ off.toNat < 0x100 then some .badWidth
    else if (region p off.toNat = .msgwin ∨ off.toNat = 0x00C) ∧ e.busy = true then some .busyWrite
    else if off.toNat = 0x004 ∧ 4 ≤ wdata.toNat then some .badCmd
    else if off.toNat = 0x004 ∧ wdata.toNat = 1 ∧ e.busy = true then some .busyCmd
    else if off.toNat = 0x004 ∧ wdata.toNat = 1 ∧ msgCap p < e.msgLen.toNat then some .lenRange
    else none

/-- Two instances alike but for the elements whose reset value is unspecified and that the host cannot reach: `A..Hw`, `W`, PADBUF
(R22, R23, R44). -/
def Engine.sameButScratch (e f : Engine v) : Prop := f = { e with work := f.work, sched := f.sched, padBuf := f.padBuf }

/-- Two states alike but for those elements of the instances. -/
def State.sameButScratch (s t : State) : Prop :=
  t = { s with e32 := t.e32, e64 := t.e64 } ∧ s.e32.sameButScratch t.e32 ∧ s.e64.sameButScratch t.e64

/-- No block data is in flight: the instance is in IDLE, INIT, PAD or DONE (R86). -/
def Engine.beforePad (e : Engine v) : Prop := e.phase.toNat ≤ 2 ∨ e.phase = 8#4

end Sys2Proof.Machine
end

