-- ==== Sys2Proof/Certificates/Slice0/Obligations.lean ====
section
/-! DEFINITION. The statements for the provers: what the numbered rules of spec/ say of this machine. -/

open Sys2Proof Sys2Proof.Machine

/-! ## Encoding -/

/-- Words written out from the tables of R82, R83, R84, R85 and R86, and the instructions they stand for. -/
def Obligations.SampleCodesDecodeToTheirRows : Prop :=
  (decode .e32 (.command 0x00000000#32) = .nop .e32 ∧ decode .e64 (.command 0x00000001#32) = .start .e64 ∧
    decode .e32 (.command 0x00000002#32) = .clear .e32 ∧ decode .e32 (.command 0x00000003#32) = .clrErr .e32 ∧
    decode .e32 (.command 0x00000006#32) = .cmdRsvOp4to7 .e32 2#2 ∧ decode .e32 (.command 0x0000000D#32) = .cmdRsvOp8to15 .e32 5#3 ∧
    decode .e32 (.command 0x80000001#32) = .cmdRsvHigh .e32 0x8000000#28 1#4) ∧
  (decode .e32 (.bus (.ofKind 0b000#3 0x100#32 0#32)) = .rd8 .e32 0x100#32 ∧
    decode .e64 (.bus (.ofKind 0b010#3 0x040#32 0#32)) = .rd32 .e64 0x040#32 ∧
    decode .e32 (.bus (.ofKind 0b100#3 0x1002#32 0x63#32)) = .wr8 .e32 0x1002#32 0x63#32 ∧
    decode .e32 (.bus (.ofKind 0b110#3 0x00C#32 3#32)) = .wr32 .e32 0x00C#32 3#32 ∧
    decode .e32 (.bus (.ofKind 0b001#3 0x008#32 0#32)) = .rd16 .e32 0x008#32 ∧
    decode .e32 (.bus (.ofKind 0b011#3 0x100#32 0#32)) = .rdx .e32 0x100#32 ∧
    decode .e32 (.bus (.ofKind 0b101#3 0x1000#32 1#32)) = .wr16 .e32 0x1000#32 1#32 ∧
    decode .e32 (.bus (.ofKind 0b111#3 0x1000#32 1#32)) = .wrx .e32 0x1000#32 1#32) ∧
  (decode .e32 (.phase 0x0#4) = .idle .e32 ∧ decode .e64 (.phase 0x4#4) = .expand .e64 ∧ decode .e32 (.phase 0x5#4) = .round .e32 ∧
    decode .e64 (.phase 0x8#4) = .done .e64 ∧ decode .e32 (.phase 0xF#4) = .phaseRsv15 .e32)

/-- R96: decoding the code of a well-formed instruction gives it back, with every operand. -/
def Obligations.DecodeOfEncodeIsTheInstruction : Prop :=
  ∀ i : Instr, i.wellFormed = true → decode i.variant (encode i) = i

/-- R96: every code is that of exactly one row: it decodes to a well-formed instruction of the instance, whose code it is, and no other
well-formed instruction of the instance has that code. -/
def Obligations.EveryCodeIsThatOfOneRow : Prop :=
  ∀ (v : Variant) (c : Code),
    (decode v c).wellFormed = true ∧ (decode v c).variant = v ∧ encode (decode v c) = c ∧
      ∀ i : Instr, i.wellFormed = true → i.variant = v → encode i = c → i = decode v c

/-- R83: the words with `RSV != 0` or `OP` in 4 to 15 raise BAD_CMD and have no other effect. -/
def Obligations.ReservedCommandWordsRaiseBadCmd : Prop :=
  ∀ (v : Variant) (word : Bus32) (s : State), (word.toNat / 16 ≠ 0 ∨ 4 ≤ word.toNat % 16) →
    exec (decode v (.command word)) s = .next (s.modify v (Engine.raise · .badCmd))

/-! ## Steps -/

/-- R210, R211: a step takes the head of the schedule; it runs the instruction that the code of an engine step or of a bus access decodes
to, and with nothing scheduled the micro-step of a busy instance. (An empty schedule is the model's choice, logs 2 and 3.) -/
def Obligations.StepRunsTheDecodedInstruction : Prop :=
  (∀ (s : State) (v : Variant) (rest : List Stimulus) (i : Instr), s.inbox = .engine v :: rest →
    decode v (.phase (s.engine v).phase) = i → step s = exec i { s with inbox := rest }) ∧
  (∀ (s : State) (v : Variant) (access : BusAccess) (rest : List Stimulus) (i : Instr), s.inbox = .bus v access :: rest →
    decode v access.code = i → step s = exec i { s with inbox := rest }) ∧
  (∀ (s : State) (v u : Variant) (i : Instr), s.inbox = [] → v ≠ u → (s.engine v).busy = true → (s.engine u).busy = false →
    decode v (.phase (s.engine v).phase) = i → step s = exec i { s with picks := s.picks + 1 })

/-- R211, R250: no step stops: every step answers a next state. -/
def Obligations.EveryStepAnswersNext : Prop := ∀ s : State, ∃ t, step s = .next t

/-- R34, R217: a WR32 to CMD does what the command its data encodes does, in the same step; a read of CMD returns 0 and has no effect. -/
def Obligations.WriteToCmdExecutesTheCommandWord : Prop :=
  ∀ (v : Variant) (word : Bus32) (s : State),
    exec (.wr32 v 0x004#32 word) s = exec (decode v (.command word)) s ∧ exec (.rd32 v 0x004#32) s = .next (s.setRdata v 0x00000000#32)

/-- R280: a reset gives one instance the values of R48 and leaves the other, the parameters and the schedule's rest alone. The unspecified
elements are left open: they are new draws. -/
def Obligations.ResetEventResetsOneInstance : Prop :=
  ∀ (s : State) (v : Variant) (rest : List Stimulus), s.inbox = .reset v :: rest →
    ∃ f : Engine v, step s = .next ({ s with inbox := rest }.setEngine v f) ∧
      f.phase = 0#4 ∧ f.err = false ∧ f.errCode = 0#4 ∧ f.msgLen = 0#32 ∧ f.nblk = 0#32 ∧ f.blk = 0#32 ∧ f.rnd = 0#8 ∧
      f.padLen = 0#32 ∧ f.h = iv v ∧ ∀ i : Fin 128, f.hex[i] = 0x00#8

/-- R48, R281: the values after reset, for every admissible capacity and window placement, and that the engine then takes no step. -/
def Obligations.ResetLeavesTheListedValues : Prop :=
  ∀ (p : Params) (v : Variant),
    let s := State.resetWith p
    let e := s.engine v
    e.phase = 0#4 ∧ e.busy = false ∧ e.isDone = false ∧ e.err = false ∧ e.errCode = 0#4 ∧ e.status = 0x00000000#32 ∧
      e.msgLen = 0#32 ∧ e.nblk = 0#32 ∧ e.blk = 0#32 ∧ e.rnd = 0#8 ∧ e.padLen = 0#32 ∧ e.h = iv v ∧
      (∀ i : Fin 128, e.hex[i] = 0x00#8) ∧ exec (decode v (.phase e.phase)) s = .next s ∧ s.par = p

/-! ## Invariant -/

/-- The invariant holds after reset, and no run is off course, for all parameters. -/
def Obligations.ResetSatisfiesTheInvariant : Prop := ∀ p : Params, (State.resetWith p).Inv ∧ (State.resetWith p).OnCourse

/-- Every step keeps the invariant: a legal phase and error code, the buffers canonical and within their capacity, HEX zeros or a digest
string, and the sequencer's registers as the phase says. -/
def Obligations.EveryStepKeepsTheInvariant : Prop :=
  ∀ s t : State, s.Inv → step s = .next t → t.Inv

/-- R38, R26, R122: however many steps are taken from a state of the invariant, BLK fits its 24 bits of PROGRESS, NBLK is at most 2^18 + 1,
RND is in 0 to R, and the bit length of a run is at most 2^27. -/
def Obligations.CountersStayInRange : Prop :=
  ∀ (s t : State) (n : Nat) (v : Variant), s.Inv → core.run n s = .next t →
    (t.engine v).blk.toNat ≤ 2 ^ 24 - 1 ∧ (t.engine v).nblk.toNat ≤ 2 ^ 18 + 1 ∧ (t.engine v).rnd.toNat ≤ v.rounds ∧
      ((t.engine v).busy = true → 8 * (t.engine v).msgLen.toNat ≤ 2 ^ 27)

/-! ## Commands -/

/-- R218: NOP has no effect, in every phase. -/
def Obligations.NopChangesNothing : Prop := ∀ (v : Variant) (s : State), exec (.nop v) s = .next s

/-- R211, R87: in IDLE and DONE, and in the phase codes no run reaches, the engine has no step: nothing changes. -/
def Obligations.WaitingPhasesChangeNothing : Prop :=
  ∀ (v : Variant) (s : State),
    exec (.idle v) s = .next s ∧ exec (.done v) s = .next s ∧ exec (.phaseRsv9 v) s = .next s ∧ exec (.phaseRsv10 v) s = .next s ∧
      exec (.phaseRsv11 v) s = .next s ∧ exec (.phaseRsv12 v) s = .next s ∧ exec (.phaseRsv13 v) s = .next s ∧
      exec (.phaseRsv14 v) s = .next s ∧ exec (.phaseRsv15 v) s = .next s

/-- R219: START when not busy and with a length that fits: INIT is next, BUSY becomes 1 and DONE 0, and nothing else changes. -/
def Obligations.StartBeginsARun : Prop :=
  ∀ (v : Variant) (s : State), (s.engine v).busy = false → (s.engine v).msgLen.toNat ≤ msgCap s.par →
    ∃ f : Engine v, exec (.start v) s = .next (s.setEngine v f) ∧ f = { s.engine v with phase := f.phase } ∧
      f.phase = 1#4 ∧ f.busy = true ∧ f.isDone = false

/-- R219: START while busy records BUSY_CMD; otherwise with a length over the capacity it records LEN_RANGE; nothing else changes. -/
def Obligations.StartIsRefusedWhenBusyOrTooLong : Prop :=
  ∀ (v : Variant) (s : State),
    ((s.engine v).busy = true →
      ∃ f : Engine v, exec (.start v) s = .next (s.setEngine v f) ∧ f = { s.engine v with err := f.err, errCode := f.errCode } ∧
        f.err = true ∧ f.errCode = if (s.engine v).err then (s.engine v).errCode else 2#4) ∧
    ((s.engine v).busy = false → msgCap s.par < (s.engine v).msgLen.toNat →
      ∃ f : Engine v, exec (.start v) s = .next (s.setEngine v f) ∧ f = { s.engine v with err := f.err, errCode := f.errCode } ∧
        f.err = true ∧ f.errCode = if (s.engine v).err then (s.engine v).errCode else 4#4)

/-- R220: CLEAR, in every phase. -/
def Obligations.ClearReturnsToIdle : Prop :=
  ∀ (v : Variant) (s : State),
    ∃ f : Engine v, exec (.clear v) s = .next (s.setEngine v f) ∧
      f.phase = 0#4 ∧ f.err = false ∧ f.errCode = 0#4 ∧ f.h = iv v ∧ (∀ i : Fin 128, f.hex[i] = 0x00#8) ∧ f.nblk = 0#32 ∧
      f.blk = 0#32 ∧ f.rnd = 0#8 ∧ f.padLen = 0#32 ∧ f.busy = false ∧ f.isDone = false ∧ f.status = 0x00000000#32 ∧
      f.msgLen = (s.engine v).msgLen ∧ f.work = (s.engine v).work ∧ f.sched = (s.engine v).sched ∧
      (∀ i, f.msgByte i = (s.engine v).msgByte i) ∧ (∀ i, f.padByte i = (s.engine v).padByte i)

/-- R221: CLRERR, in every phase: the error record is cleared and nothing else changes. -/
def Obligations.ClrErrClearsOnlyTheErrorRecord : Prop :=
  ∀ (v : Variant) (s : State),
    ∃ f : Engine v, exec (.clrErr v) s = .next (s.setEngine v f) ∧ f = { s.engine v with err := f.err, errCode := f.errCode } ∧
      f.err = false ∧ f.errCode = 0#4

/-- R222, R252: the three reserved rows record BAD_CMD, or keep the first error's code, also while busy; nothing else changes. -/
def Obligations.ReservedCommandRowsRaiseBadCmd : Prop :=
  ∀ (v : Variant) (low2 : BitVec 2) (low3 : BitVec 3) (rsv : BitVec 28) (op : BitVec 4) (s : State),
    ∃ f : Engine v,
      exec (.cmdRsvOp4to7 v low2) s = .next (s.setEngine v f) ∧ exec (.cmdRsvOp8to15 v low3) s = .next (s.setEngine v f) ∧
      exec (.cmdRsvHigh v rsv op) s = .next (s.setEngine v f) ∧ f = { s.engine v with err := f.err, errCode := f.errCode } ∧
      f.err = true ∧ f.errCode = if (s.engine v).err then (s.engine v).errCode else 1#4

/-! ## Reads -/

/-- R35, R30: a 4-byte read of STATUS. -/
def Obligations.StatusReadsItsFields : Prop :=
  ∀ (v : Variant) (s : State),
    ∃ x : Bus32, exec (.rd32 v 0x008#32) s = .next (s.setRdata v x) ∧
      (x.getLsbD 0 = true ↔ 1 ≤ (s.engine v).phase.toNat ∧ (s.engine v).phase.toNat ≤ 7) ∧
      (x.getLsbD 1 = true ↔ (s.engine v).phase.toNat = 8) ∧ x.getLsbD 2 = (s.engine v).err ∧ x.getLsbD 3 = false ∧
      x.extractLsb' 4 4 = (s.engine v).phase ∧ x.extractLsb' 8 4 = (s.engine v).errCode ∧ x.extractLsb' 12 20 = 0#20

/-- R33, R36, R37, R38, R39, R34, R42: a 4-byte read of the other registers below the H window, and of the reserved offsets of CONTROL.
Nothing but the answer changes. -/
def Obligations.ControlRegistersReadAsListed : Prop :=
  ∀ (v : Variant) (s : State) (off : Bus32), off.toNat < 0x100 → off.toNat % 4 = 0 →
    ∃ x : Bus32, exec (.rd32 v off) s = .next (s.setRdata v x) ∧
      (off.toNat = 0x000 → x = match v with | .e32 => 0x53480720#32 | .e64 => 0x53480840#32) ∧
      (off.toNat = 0x004 → x = 0#32) ∧
      (off.toNat = 0x00C → x = (s.engine v).msgLen) ∧
      (off.toNat = 0x010 → x = (s.engine v).nblk) ∧
      (off.toNat = 0x014 → x.toNat = (s.engine v).blk.toNat % 2 ^ 24 * 256 + (s.engine v).rnd.toNat) ∧
      (off.toNat = 0x018 → x.toNat = msgCap s.par) ∧
      ((0x01C ≤ off.toNat ∧ off.toNat < 0x040) ∨ 0x080 ≤ off.toNat → x = 0#32)

/-- R40, R55: the sixteen registers of the H window, live in every phase; for Engine-64 the high half lies at the lower offset. -/
def Obligations.HWindowReadsTheState : Prop :=
  (∀ (s : State) (k : Fin 8),
    exec (.rd32 .e32 (BitVec.ofNat 32 (0x040 + 4 * k.val))) s = .next (s.setRdata .e32 (s.e32.h[k])) ∧
    exec (.rd32 .e32 (BitVec.ofNat 32 (0x060 + 4 * k.val))) s = .next (s.setRdata .e32 0#32)) ∧
  (∀ (s : State) (k : Fin 8),
    exec (.rd32 .e64 (BitVec.ofNat 32 (0x040 + 8 * k.val))) s =
      .next (s.setRdata .e64 (BitVec.ofNat 32 ((s.e64.h[k]).toNat / 2 ^ 32))) ∧
    exec (.rd32 .e64 (BitVec.ofNat 32 (0x044 + 8 * k.val))) s =
      .next (s.setRdata .e64 (BitVec.ofNat 32 ((s.e64.h[k]).toNat % 2 ^ 32))))

/-- R212, R41, R42, R53: an aligned 4-byte read above CONTROL: lane `i` is the byte of HEX or MSG at `off + i`, and 0 elsewhere. Nothing
but the answer changes. -/
def Obligations.WordReadsOfTheByteRegions : Prop :=
  ∀ (v : Variant) (s : State) (off : Bus32), 0x100 ≤ off.toNat → off.toNat % 4 = 0 →
    ∃ x : Bus32, exec (.rd32 v off) s = .next (s.setRdata v x) ∧
      ∀ i : Nat, i < 4 →
        (off.toNat < 0x180 → some (x.extractLsb' (8 * i) 8) = (s.engine v).hex[off.toNat - 0x100 + i]?) ∧
        (0x180 ≤ off.toNat → off.toNat < 0x1000 → x.extractLsb' (8 * i) 8 = 0#8) ∧
        (0x1000 ≤ off.toNat → off.toNat < 0x1000 + msgCap s.par →
          x.extractLsb' (8 * i) 8 = (s.engine v).msgByte (off.toNat - 0x1000 + i)) ∧
        (0x1000 + msgCap s.par ≤ off.toNat → x.extractLsb' (8 * i) 8 = 0#8)

/-- R212, R56: a misaligned RD32 returns 0 and records MISALIGNED, or keeps the first error's code; nothing else changes. -/
def Obligations.MisalignedReadIsRefused : Prop :=
  ∀ (v : Variant) (s : State) (off : Bus32), off.toNat % 4 ≠ 0 →
    ∃ f : Engine v, exec (.rd32 v off) s = .next ((s.setEngine v f).setRdata v 0#32) ∧
      f = { s.engine v with err := f.err, errCode := f.errCode } ∧ f.err = true ∧
      f.errCode = if (s.engine v).err then (s.engine v).errCode else 5#4

/-- R213: RD8 of CONTROL is refused with BAD_WIDTH and returns 0; elsewhere, at any alignment, it returns the byte zero-extended. -/
def Obligations.ByteReadsReturnTheByte : Prop :=
  ∀ (v : Variant) (s : State) (off : Bus32),
    (off.toNat < 0x100 →
      ∃ f : Engine v, exec (.rd8 v off) s = .next ((s.setEngine v f).setRdata v 0#32) ∧
        f = { s.engine v with err := f.err, errCode := f.errCode } ∧ f.err = true ∧
        f.errCode = if (s.engine v).err then (s.engine v).errCode else 6#4) ∧
    (0x100 ≤ off.toNat →
      ∃ b : Byte, exec (.rd8 v off) s = .next (s.setRdata v (b.zeroExtend 32)) ∧
        (off.toNat < 0x180 → some b = (s.engine v).hex[off.toNat - 0x100]?) ∧
        (0x180 ≤ off.toNat → off.toNat < 0x1000 → b = 0#8) ∧
        (0x1000 ≤ off.toNat → off.toNat < 0x1000 + msgCap s.par → b = (s.engine v).msgByte (off.toNat - 0x1000)) ∧
        (0x1000 + msgCap s.par ≤ off.toNat → b = 0#8))

/-- R54: a 4-byte read of a byte region returns what the four 1-byte reads of its bytes return, in lanes. -/
def Obligations.WordReadIsFourByteReads : Prop :=
  ∀ (v : Variant) (s : State) (off : Bus32), 0x100 ≤ off.toNat → off.toNat % 4 = 0 →
    ∃ t : State, exec (.rd32 v off) s = .next t ∧
      ∀ i : Nat, i < 4 → ∃ u : State, exec (.rd8 v (off + BitVec.ofNat 32 i)) s = .next u ∧
        u.rdata v = ((t.rdata v).extractLsb' (8 * i) 8).zeroExtend 32

/-! ## Writes -/

/-- R36, R214: a WR32 to MSG_LEN while not busy stores all 32 bits, unchecked, and nothing else changes. -/
def Obligations.MsgLenStoresAnyValue : Prop :=
  ∀ (v : Variant) (s : State) (x : Bus32), (s.engine v).busy = false →
    exec (.wr32 v 0x00C#32 x) s = .next (s.setEngine v { s.engine v with msgLen := x })

/-- R214, R53: an aligned WR32 to MSGWIN while not busy stores its four lanes from `off - 0x1000` on; every other byte of MSG, and
everything else, is unchanged. -/
def Obligations.WordWriteStoresFourLanes : Prop :=
  ∀ (v : Variant) (s : State) (off x : Bus32), (s.engine v).busy = false → off.toNat % 4 = 0 → 0x1000 ≤ off.toNat →
    off.toNat < 0x1000 + msgCap s.par →
    ∃ f : Engine v, exec (.wr32 v off x) s = .next (s.setEngine v f) ∧ f = { s.engine v with msg := f.msg } ∧
      (∀ i : Nat, i < 4 → f.msgByte (off.toNat - 0x1000 + i) = x.extractLsb' (8 * i) 8) ∧
      (∀ a : Nat, a < off.toNat - 0x1000 ∨ off.toNat - 0x1000 + 4 ≤ a → f.msgByte a = (s.engine v).msgByte a)

/-- R215: a WR8 to MSGWIN while not busy, at any alignment, stores `WDATA[7:0]`; every other byte of MSG, and everything else, is
unchanged. -/
def Obligations.ByteWriteStoresOneByte : Prop :=
  ∀ (v : Variant) (s : State) (off x : Bus32), (s.engine v).busy = false → 0x1000 ≤ off.toNat →
    off.toNat < 0x1000 + msgCap s.par →
    ∃ f : Engine v, exec (.wr8 v off x) s = .next (s.setEngine v f) ∧ f = { s.engine v with msg := f.msg } ∧
      f.msgByte (off.toNat - 0x1000) = BitVec.ofNat 8 x.toNat ∧
      (∀ a : Nat, a ≠ off.toNat - 0x1000 → f.msgByte a = (s.engine v).msgByte a)

/-- R54: a 4-byte write of MSGWIN equals the four 1-byte writes of its lanes (in a state whose MSG is canonical). -/
def Obligations.WordWriteIsFourByteWrites : Prop :=
  ∀ (v : Variant) (s s0 s1 s2 s3 : State) (off x : Bus32), s.Inv → (s.engine v).busy = false → off.toNat % 4 = 0 →
    0x1000 ≤ off.toNat → off.toNat < 0x1000 + msgCap s.par →
    exec (.wr8 v off x) s = .next s0 → exec (.wr8 v (off + 1#32) (x >>> 8)) s0 = .next s1 →
    exec (.wr8 v (off + 2#32) (x >>> 16)) s1 = .next s2 → exec (.wr8 v (off + 3#32) (x >>> 24)) s2 = .next s3 →
    exec (.wr32 v off x) s = .next s3

/-- R42, R57: an aligned WR32 to a read-only or reserved offset of CONTROL, to HEXWIN, RESERVED or UNMAPPED, and a WR8 to HEXWIN, RESERVED
or UNMAPPED, in every phase: ignored without error. -/
def Obligations.WritesElsewhereAreIgnored : Prop :=
  ∀ (v : Variant) (s : State) (off x : Bus32),
    (off.toNat % 4 = 0 → off.toNat ≠ 0x004 → off.toNat ≠ 0x00C → off.toNat < 0x1000 ∨ 0x1000 + msgCap s.par ≤ off.toNat →
      exec (.wr32 v off x) s = .next s) ∧
    (0x100 ≤ off.toNat → off.toNat < 0x1000 ∨ 0x1000 + msgCap s.par ≤ off.toNat → exec (.wr8 v off x) s = .next s)

/-- R216: the four reserved kinds raise BAD_WIDTH whatever the offset; a read returns 0; nothing else changes. -/
def Obligations.ReservedSizesRaiseBadWidth : Prop :=
  ∀ (v : Variant) (s : State) (off x : Bus32),
    ∃ f : Engine v, f = { s.engine v with err := f.err, errCode := f.errCode } ∧ f.err = true ∧
      f.errCode = (if (s.engine v).err then (s.engine v).errCode else 6#4) ∧
      exec (.rd16 v off) s = .next ((s.setEngine v f).setRdata v 0#32) ∧
      exec (.rdx v off) s = .next ((s.setEngine v f).setRdata v 0#32) ∧
      exec (.wr16 v off x) s = .next (s.setEngine v f) ∧ exec (.wrx v off x) s = .next (s.setEngine v f)

/-! ## Errors -/

/-- R253, R252: a bus access whose checks do not all pass records the error of the first that fails, in the rule's order, or keeps an earlier
error's code, and changes nothing else of the machine: the write is dropped, and the read answers 0. If every check passes, no error is
recorded. -/
def Obligations.FirstFailingCheckDecidesTheError : Prop :=
  ∀ (v : Variant) (s : State) (access : BusAccess),
    ∃ t : State, exec (decode v access.code) s = .next t ∧ s.onlyInstance t v ∧
      (∀ c, accessError s.par (s.engine v) access = some c →
        t.engine v = (if (s.engine v).err then s.engine v else { s.engine v with err := true, errCode := c.code }) ∧
        (∀ size off, access = .read size off → t.rdata v = 0x00000000#32) ∧
        (∀ size off wdata, access = .write size off wdata → t.rdata v = s.rdata v)) ∧
      (accessError s.par (s.engine v) access = none → (s.engine v).err = false → (t.engine v).err = false)

/-- R255: CLRERR, CLEAR and reset of an instance clear its error record; no other instruction and no other reset does: a record with an
error in it is kept. -/
def Obligations.OnlyClrErrClearAndResetClearErrors : Prop :=
  (∀ (i : Instr) (s : State) (u : Variant), (s.engine u).err = true →
    ∃ t, exec i s = .next t ∧
      ((i = .clrErr u ∨ i = .clear u ∨ i = .wr32 u 0x004#32 3#32 ∨ i = .wr32 u 0x004#32 2#32) →
        (t.engine u).err = false ∧ (t.engine u).errCode = 0#4) ∧
      (¬ (i = .clrErr u ∨ i = .clear u ∨ i = .wr32 u 0x004#32 3#32 ∨ i = .wr32 u 0x004#32 2#32) →
        (t.engine u).err = true ∧ (t.engine u).errCode = (s.engine u).errCode)) ∧
  (∀ (s : State) (v u : Variant) (rest : List Stimulus), s.inbox = .reset v :: rest →
    ∃ t, step s = .next t ∧ (u = v → (t.engine u).err = false ∧ (t.engine u).errCode = 0#4) ∧
      (u ≠ v → (t.engine u).err = (s.engine u).err ∧ (t.engine u).errCode = (s.engine u).errCode))

/-- R62, R254, R283: while an instance is busy, a host access other than CLEAR changes at most its error record (and the answer of its last
read): not the message, its length, the phase, a counter or a result. -/
def Obligations.BusyAccessesChangeOnlyTheErrorRecord : Prop :=
  ∀ (v : Variant) (s : State) (access : BusAccess), (s.engine v).busy = true → ¬ (Stimulus.bus v access).aborts v →
    ∃ t : State, exec (decode v access.code) s = .next t ∧ s.onlyInstance t v ∧
      t.engine v = { s.engine v with err := (t.engine v).err, errCode := (t.engine v).errCode }

/-! ## Micro-operations -/

/-- R160: INIT. -/
def Obligations.InitLoadsTheIV : Prop :=
  ∀ (v : Variant) (s : State),
    ∃ f : Engine v, exec (.init v) s = .next (s.setEngine v f) ∧
      f = { s.engine v with h := f.h, blk := f.blk, rnd := f.rnd, nblk := f.nblk, phase := f.phase } ∧
      f.h = iv v ∧ f.blk = 0#32 ∧ f.rnd = 0#8 ∧ f.nblk = 0#32 ∧ f.phase = 2#4

/-- R145, R144: PAD, for a length that fits: the bytes of the message, 0x80, zeros, the bit length big-endian; the bytes of PADBUF from
PADLEN on, and everything else, unchanged. -/
def Obligations.PadWritesThePaddedMessage : Prop :=
  ∀ (v : Variant) (s : State) (n : Nat), n = (s.engine v).msgLen.toNat → n ≤ msgCap s.par →
    ∃ (f : Engine v) (q : Nat), exec (.pad v) s = .next (s.setEngine v f) ∧
      f = { s.engine v with padBuf := f.padBuf, padLen := f.padLen, phase := f.phase } ∧
      q % blockBytes v = 0 ∧ n + 1 + lenBytes v ≤ q ∧ q < n + 1 + lenBytes v + blockBytes v ∧
      f.padLen.toNat = q ∧ f.phase = 3#4 ∧
      (∀ i, i < n → f.padByte i = (s.engine v).msgByte i) ∧
      f.padByte n = 0x80#8 ∧
      (∀ i, n < i → i < q - lenBytes v → f.padByte i = 0x00#8) ∧
      (∀ i, i < lenBytes v → f.padByte (q - lenBytes v + i) = BitVec.ofNat 8 (8 * n / 256 ^ (lenBytes v - 1 - i))) ∧
      (∀ i, q ≤ i → f.padByte i = (s.engine v).padByte i)

/-- R145 (D31): the bytes PAD writes, each most significant bit first, are exactly the padded bit sequence of R141. -/
def Obligations.PaddedBytesAreThePaddedBitSequence : Prop :=
  ∀ (v : Variant) (m : List Byte), m.length ≤ 2 ^ 24 →
    Reference.bitsOf (paddedBytes v m) = Reference.paddedBits v m

/-- R141: the number of zero bits is the least `k` with `(8n + 1 + k) mod B = B - L`, and the padded length is a whole number of blocks. -/
def Obligations.ZeroBitsAreTheFewestThatFillABlock : Prop :=
  ∀ (v : Variant) (m : List Byte),
    (8 * m.length + 1 + Reference.zeroBits v m.length) % blockBits v = blockBits v - lenBits v ∧
    (∀ k, (8 * m.length + 1 + k) % blockBits v = blockBits v - lenBits v → Reference.zeroBits v m.length ≤ k) ∧
    (Reference.paddedBits v m).length % blockBits v = 0 ∧
    (Reference.paddedBits v m).length = 8 * paddedLen v m.length

/-- R149, R147: SEGMENT: `NBLK` is `PADLEN div BB`; where PADLEN is the padded length of the message, it divides exactly and is at least 1.
Everything else is unchanged. -/
def Obligations.SegmentCountsTheBlocks : Prop :=
  ∀ (v : Variant) (s : State),
    ∃ f : Engine v, exec (.segment v) s = .next (s.setEngine v f) ∧
      f = { s.engine v with nblk := f.nblk, blk := f.blk, phase := f.phase } ∧
      f.nblk.toNat = (s.engine v).padLen.toNat / blockBytes v ∧ f.blk = 0#32 ∧ f.phase = 4#4 ∧
      (∀ n, (s.engine v).padLen.toNat = paddedLen v n → f.nblk.toNat * blockBytes v = paddedLen v n ∧ 1 ≤ f.nblk.toNat)

/-- R148, R146: after PAD, BlockWord gives the words of the padded bit sequence. -/
def Obligations.BlockWordsAreThePaddedWords : Prop :=
  ∀ (v : Variant) (s t : State) (n j q : Nat), n = (s.engine v).msgLen.toNat → n ≤ msgCap s.par → exec (.pad v) s = .next t →
    j < Reference.blockCount v n → q < 16 →
    (t.engine v).blockWord j q = Reference.wordOfBits v (Reference.paddedBits v ((s.engine v).message n)) (16 * j + q)

/-- R165, R120, R121: EXPAND: the schedule's first 16 words are the block's, each later one is the sum of four earlier ones; the working
registers are the State; everything else unchanged. -/
def Obligations.ExpandFillsTheSchedule : Prop :=
  ∀ (v : Variant) (s : State),
    ∃ f : Engine v, exec (.expand v) s = .next (s.setEngine v f) ∧
      f = { s.engine v with sched := f.sched, work := f.work, rnd := f.rnd, phase := f.phase } ∧
      (∀ t : Fin v.rounds, t.val < 16 → f.sched[t] = (s.engine v).blockWord (s.engine v).blk.toNat t.val) ∧
      (∀ t a b c d : Fin v.rounds, 16 ≤ t.val → a.val + 16 = t.val → b.val + 15 = t.val → c.val + 7 = t.val → d.val + 2 = t.val →
        f.sched[t] = f.sched[a] + ssig0 v f.sched[b] + f.sched[c] + ssig1 v f.sched[d]) ∧
      f.work.a = (s.engine v).h[0] ∧ f.work.b = (s.engine v).h[1] ∧ f.work.c = (s.engine v).h[2] ∧ f.work.d = (s.engine v).h[3] ∧
      f.work.e = (s.engine v).h[4] ∧ f.work.f = (s.engine v).h[5] ∧ f.work.g = (s.engine v).h[6] ∧ f.work.hw = (s.engine v).h[7] ∧
      f.rnd = 0#8 ∧ f.phase = 5#4

/-- R166: ROUND `t = RND`, for `t` in 0 to R-1: the two sums, the simultaneous update, the next index and the next phase; everything else
unchanged. -/
def Obligations.RoundUpdatesTheWorkingRegisters : Prop :=
  ∀ (v : Variant) (s : State) (t : Fin v.rounds) (kt : Word v), (s.engine v).rnd.toNat = t.val → (kTable v)[t.val]? = some kt →
    ∃ (f : Engine v) (t1 t2 : Word v), exec (.round v) s = .next (s.setEngine v f) ∧
      f = { s.engine v with work := f.work, rnd := f.rnd, phase := f.phase } ∧
      t1 = (s.engine v).work.hw + bsig1 v (s.engine v).work.e +
        ch (s.engine v).work.e (s.engine v).work.f (s.engine v).work.g + kt + (s.engine v).sched[t] ∧
      t2 = bsig0 v (s.engine v).work.a + maj (s.engine v).work.a (s.engine v).work.b (s.engine v).work.c ∧
      f.work.hw = (s.engine v).work.g ∧ f.work.g = (s.engine v).work.f ∧ f.work.f = (s.engine v).work.e ∧
      f.work.e = (s.engine v).work.d + t1 ∧ f.work.d = (s.engine v).work.c ∧ f.work.c = (s.engine v).work.b ∧
      f.work.b = (s.engine v).work.a ∧ f.work.a = t1 + t2 ∧
      f.rnd.toNat = t.val + 1 ∧ (t.val + 1 = v.rounds → f.phase = 6#4) ∧ (t.val + 1 ≠ v.rounds → f.phase = 5#4)

/-- R167: UPDATE, for a block index that does not wrap: the eight sums, the next block, and EXPAND or ASSEMBLE next; everything else
unchanged. -/
def Obligations.UpdateAddsTheWorkingRegisters : Prop :=
  ∀ (v : Variant) (s : State), (s.engine v).blk.toNat + 1 < 2 ^ 32 →
    ∃ f : Engine v, exec (.update v) s = .next (s.setEngine v f) ∧
      f = { s.engine v with h := f.h, blk := f.blk, phase := f.phase } ∧
      f.h[0] = (s.engine v).h[0] + (s.engine v).work.a ∧ f.h[1] = (s.engine v).h[1] + (s.engine v).work.b ∧
      f.h[2] = (s.engine v).h[2] + (s.engine v).work.c ∧ f.h[3] = (s.engine v).h[3] + (s.engine v).work.d ∧
      f.h[4] = (s.engine v).h[4] + (s.engine v).work.e ∧ f.h[5] = (s.engine v).h[5] + (s.engine v).work.f ∧
      f.h[6] = (s.engine v).h[6] + (s.engine v).work.g ∧ f.h[7] = (s.engine v).h[7] + (s.engine v).work.hw ∧
      f.blk.toNat = (s.engine v).blk.toNat + 1 ∧
      ((s.engine v).blk.toNat + 1 < (s.engine v).nblk.toNat → f.phase = 4#4) ∧
      ((s.engine v).nblk.toNat ≤ (s.engine v).blk.toNat + 1 → f.phase = 7#4)

/-- R190 to R193: ASSEMBLE: character `i` of the string is the lowercase digit `i mod (w/4)`, most significant first, of `H[i div (w/4)]`;
the bytes from HEXLEN on are 0x00; everything else unchanged. -/
def Obligations.AssembleRendersTheDigest : Prop :=
  ∀ (v : Variant) (s : State),
    ∃ f : Engine v, exec (.assemble v) s = .next (s.setEngine v f) ∧
      f = { s.engine v with hex := f.hex, phase := f.phase } ∧ f.phase = 8#4 ∧
      (∀ (i : Fin 128) (k : Fin 8) (d x : Nat), i.val < hexLen v → k.val = i.val / (v.w / 4) → d = i.val % (v.w / 4) →
        x = (s.engine v).h[k].toNat / 16 ^ (v.w / 4 - 1 - d) % 16 →
        f.hex[i].toNat = if x ≤ 9 then 0x30 + x else 0x61 + (x - 10)) ∧
      (∀ i : Fin 128, hexLen v ≤ i.val → f.hex[i] = 0x00#8)

/-- R194: after ASSEMBLE the string is exactly HEXLEN lowercase hexadecimal characters: 56 or 128. -/
def Obligations.DigestIsLowercaseHexOfFixedLength : Prop :=
  hexLen .e32 = 56 ∧ hexLen .e64 = 128 ∧
  ∀ (v : Variant) (s : State),
    ∃ t, exec (.assemble v) s = .next t ∧ (digestString v (s.engine v).h).length = hexLen v ∧
      (∀ i : Fin 128, i.val < hexLen v → isHexChar (t.engine v).hex[i]) ∧
      (∀ i : Fin 128, hexLen v ≤ i.val → (t.engine v).hex[i] = 0x00#8)

/-! ## Bit utilities and constants -/

/-- R124: on `w`-bit words, for both widths and every amount below `w`, the native operations give the mask-then-operate forms of R110 to R115. -/
def Obligations.NativeWordsEqualTheMaskedForms : Prop :=
  ∀ (v : Variant) (x y : Word v) (n : Nat), n < v.w →
    (mask v.w).toNat = maskNat v.w ∧ (rotr x n).toNat = rotrNat v.w x.toNat n ∧ (rotl x n).toNat = rotlNat v.w x.toNat n ∧
      (shr x n).toNat = shrNat v.w x.toNat n ∧ (~~~x).toNat = notNat v.w x.toNat ∧
      (x + y).toNat = addModNat v.w [x.toNat, y.toNat]

/-- R123: the rotation laws, for every number, amount and width. -/
def Obligations.RotationLaws : Prop :=
  ∀ w x n : Nat, 0 < w →
    rotrNat w (rotlNat w x n) n = x % 2 ^ w ∧ rotrNat w x 0 = x &&& maskNat w ∧ rotlNat w x 0 = x &&& maskNat w

/-- R114: the sum taken exactly and masked once is repeated two-operand addition, for the engine's sums of 2, 4 and 5 words. -/
def Obligations.SumsMayBeMaskedOnce : Prop :=
  ∀ (v : Variant) (a b c d e : Word v),
    (a + b).toNat = addModNat v.w [a.toNat, b.toNat] ∧
    (a + b + c + d).toNat = addModNat v.w [a.toNat, b.toNat, c.toNat, d.toNat] ∧
    (a + b + c + d + e).toNat = addModNat v.w [a.toNat, b.toNat, c.toNat, d.toNat, e.toNat]

/-- R118 to R121: the four sigma functions with their amounts for each variant, in the masked forms of R111 and R113. -/
def Obligations.SigmaFunctionsUseTheListedAmounts : Prop :=
  (∀ x : Word .e32,
    (bsig0 .e32 x).toNat = rotrNat 32 x.toNat 2 ^^^ rotrNat 32 x.toNat 13 ^^^ rotrNat 32 x.toNat 22 ∧
    (bsig1 .e32 x).toNat = rotrNat 32 x.toNat 6 ^^^ rotrNat 32 x.toNat 11 ^^^ rotrNat 32 x.toNat 25 ∧
    (ssig0 .e32 x).toNat = rotrNat 32 x.toNat 7 ^^^ rotrNat 32 x.toNat 18 ^^^ shrNat 32 x.toNat 3 ∧
    (ssig1 .e32 x).toNat = rotrNat 32 x.toNat 17 ^^^ rotrNat 32 x.toNat 19 ^^^ shrNat 32 x.toNat 10) ∧
  (∀ x : Word .e64,
    (bsig0 .e64 x).toNat = rotrNat 64 x.toNat 28 ^^^ rotrNat 64 x.toNat 34 ^^^ rotrNat 64 x.toNat 39 ∧
    (bsig1 .e64 x).toNat = rotrNat 64 x.toNat 14 ^^^ rotrNat 64 x.toNat 18 ^^^ rotrNat 64 x.toNat 41 ∧
    (ssig0 .e64 x).toNat = rotrNat 64 x.toNat 1 ^^^ rotrNat 64 x.toNat 8 ^^^ shrNat 64 x.toNat 7 ∧
    (ssig1 .e64 x).toNat = rotrNat 64 x.toNat 19 ^^^ rotrNat 64 x.toNat 61 ^^^ shrNat 64 x.toNat 6)

/-- R161, R162: the IV tables are `floor(sqrt(p) * 2^64)` modulo `2^w`, for the ninth to sixteenth and for the first eight primes. -/
def Obligations.InitialStateIsSquareRootFractions : Prop :=
  (∀ (k : Fin 8) (p : Nat), p.Prime → p.primeCounting' = k.val + 8 →
    ((iv .e32)[k]).toNat = Nat.sqrt (p * 2 ^ 128) % 2 ^ 32) ∧
  (∀ (k : Fin 8) (p : Nat), p.Prime → p.primeCounting' = k.val →
    ((iv .e64)[k]).toNat = Nat.sqrt (p * 2 ^ 128) % 2 ^ 64)

/-- R163, R164: the tables K are `floor(cbrt(p) * 2^w)` modulo `2^w`, for the first 64 and the first 80 primes. -/
def Obligations.RoundConstantsAreCubeRootFractions : Prop :=
  ∀ (v : Variant) (t p r : Nat), t < v.rounds → p.Prime → p.primeCounting' = t → r ^ 3 ≤ p * 2 ^ (3 * v.w) →
    p * 2 ^ (3 * v.w) < (r + 1) ^ 3 → (roundConst v t).toNat = r % 2 ^ v.w

/-! ## Whole-machine rules -/

/-- R51: the regions of a window. -/
def Obligations.RegionsOfAWindow : Prop :=
  ∀ (p : Params) (off : Nat),
    (region p off = .control ↔ off ≤ 0x0FF) ∧ (region p off = .hexwin ↔ 0x100 ≤ off ∧ off ≤ 0x17F) ∧
      (region p off = .reserved ↔ 0x180 ≤ off ∧ off ≤ 0xFFF) ∧
      (region p off = .msgwin ↔ 0x1000 ≤ off ∧ off < 0x1000 + msgCap p) ∧ (region p off = .unmapped ↔ 0x1000 + msgCap p ≤ off)

/-- R21 to R28, R31, R36, R43, R44, R45: only the listed instructions change each element of an instance (`wr32 u 0x004` with data 1, 2 and 3
is START, CLEAR and CLRERR, R217). No instruction draws the bytes of MSG and PADBUF again (`epoch`, log 7). -/
def Obligations.OnlyTheListedInstructionsWriteEachElement : Prop :=
  ∀ (i : Instr) (s : State) (u : Variant), ∃ t, exec i s = .next t ∧
    ((t.engine u).phase ≠ (s.engine u).phase →
      (i = .init u ∨ i = .pad u ∨ i = .segment u ∨ i = .expand u ∨ i = .round u ∨ i = .update u ∨ i = .assemble u) ∨
      (i = .clear u ∨ i = .wr32 u 0x004#32 2#32) ∨
      ((s.engine u).busy = false ∧ (s.engine u).msgLen.toNat ≤ msgCap s.par ∧ (i = .start u ∨ i = .wr32 u 0x004#32 1#32))) ∧
    ((t.engine u).blk ≠ (s.engine u).blk → i = .init u ∨ i = .segment u ∨ i = .update u ∨ i = .clear u ∨ i = .wr32 u 0x004#32 2#32) ∧
    ((t.engine u).rnd ≠ (s.engine u).rnd → i = .init u ∨ i = .expand u ∨ i = .round u ∨ i = .clear u ∨ i = .wr32 u 0x004#32 2#32) ∧
    ((t.engine u).nblk ≠ (s.engine u).nblk → i = .init u ∨ i = .segment u ∨ i = .clear u ∨ i = .wr32 u 0x004#32 2#32) ∧
    ((t.engine u).err ≠ (s.engine u).err ∨ (t.engine u).errCode ≠ (s.engine u).errCode →
      i.variant = u ∧ (∀ code, i ≠ decode u (.phase code)) ∧
        ((s.engine u).err = true →
          i = .clrErr u ∨ i = .clear u ∨ i = .wr32 u 0x004#32 3#32 ∨ i = .wr32 u 0x004#32 2#32)) ∧
    ((t.engine u).h ≠ (s.engine u).h → i = .init u ∨ i = .update u ∨ i = .clear u ∨ i = .wr32 u 0x004#32 2#32) ∧
    ((t.engine u).hex ≠ (s.engine u).hex → i = .assemble u ∨ i = .clear u ∨ i = .wr32 u 0x004#32 2#32) ∧
    ((t.engine u).work ≠ (s.engine u).work → i = .expand u ∨ i = .round u) ∧
    ((t.engine u).sched ≠ (s.engine u).sched → i = .expand u) ∧
    ((t.engine u).padBuf ≠ (s.engine u).padBuf → i = .pad u) ∧
    ((t.engine u).padLen ≠ (s.engine u).padLen → i = .pad u ∨ i = .clear u ∨ i = .wr32 u 0x004#32 2#32) ∧
    ((t.engine u).msgLen ≠ (s.engine u).msgLen → (s.engine u).busy = false ∧ ∃ x, i = .wr32 u 0x00C#32 x) ∧
    ((t.engine u).msg ≠ (s.engine u).msg → (s.engine u).busy = false ∧ ∃ off x, 0x1000 ≤ off.toNat ∧
      off.toNat < 0x1000 + msgCap s.par ∧ (i = .wr8 u off x ∨ (off.toNat % 4 = 0 ∧ i = .wr32 u off x))) ∧
    (t.engine u).epoch = (s.engine u).epoch

/-- R63, R260: an instruction leaves the other instance alone, and instructions of different instances commute. -/
def Obligations.InstancesCommute : Prop :=
  (∀ (i : Instr) (s : State) (u : Variant), u ≠ i.variant →
    ∃ t, exec i s = .next t ∧ t.engine u = s.engine u ∧ t.rdata u = s.rdata u) ∧
  (∀ (i j : Instr) (s t u : State), i.variant ≠ j.variant → exec i s = .next t → exec j s = .next u →
    ∃ r, exec j t = .next r ∧ exec i u = .next r)

/-- R22, R23, R44: the elements whose value is unspecified after reset are never observed: two states that differ only in them, with no
block data in flight, differ only in them after any number of steps, whatever the schedule. -/
def Obligations.UnspecifiedElementsAreNeverObserved : Prop :=
  ∀ (s t : State) (n : Nat), s.Inv → s.sameButScratch t → s.e32.beforePad → s.e64.beforePad →
    ∃ s' t', core.run n s = .next s' ∧ core.run n t = .next t' ∧ State.sameButScratch s' t'

/-- R223, R225: a run that neither CLEAR nor reset cuts short is busy until its last micro-step, whatever the host does in between. -/
def Obligations.RunIsBusyUntilItsLastMicroStep : Prop :=
  ∀ (s : State) (v : Variant) (xs rest : List Stimulus),
    (s.engine v).phase = 1#4 → (s.engine v).msgLen.toNat ≤ msgCap s.par → (∀ x ∈ xs, ¬ x.aborts v) →
    xs.count (.engine v) < Reference.runLength v (s.engine v).msgLen.toNat → s.inbox = xs ++ rest →
    ∃ t, core.run xs.length s = .next t ∧ (t.engine v).busy = true

/-- R224, R62, R168, R225: after the last of its `4 + NBLK * (R + 2)` micro-steps a run has reached DONE, with `H = S_NBLK` for the blocks of
the padded bit sequence of the message at START and the digest string in HEX, whatever the interleaving of host steps. -/
def Obligations.HashRunEndsWithTheDigest : Prop :=
  ∀ (s : State) (v : Variant) (xs rest : List Stimulus),
    (s.engine v).phase = 1#4 → (s.engine v).msgLen.toNat ≤ msgCap s.par → (∀ x ∈ xs, ¬ x.aborts v) →
    xs.count (.engine v) + 1 = Reference.runLength v (s.engine v).msgLen.toNat → s.inbox = xs ++ .engine v :: rest →
    ∃ t, core.run (xs.length + 1) s = .next t ∧ t.inbox = rest ∧
      (t.engine v).holdsDigest ((s.engine v).message (s.engine v).msgLen.toNat)

/-- R95, R93, R91, R92: from an instance that is not busy, LOADMSG, START and WAIT_DONE leave the digest of the bytes in HEX; the poll of
STATUS answers BUSY = 0 and DONE = 1. That WAIT_DONE is one poll after all the engine's steps is the model's choice (log 15), the schedule of
95_test_vectors.md section 3. -/
def Obligations.HashScriptLeavesTheDigest : Prop :=
  ∀ (s : State) (v : Variant) (m : List Byte), (s.engine v).busy = false → m.length ≤ msgCap s.par →
    s.inbox = Script.hashRun v m (Reference.runLength v m.length) →
    ∃ t, core.run s.inbox.length s = .next t ∧ t.inbox = [] ∧ (t.engine v).holdsDigest m ∧
      (t.rdata v).getLsbD 0 = false ∧ (t.rdata v).getLsbD 1 = true

/-- R168, R165, R166, R167, R223, R224: every step keeps every run on course: `H` the chain of compressions of the message's blocks up to BLK,
`W` the schedule of block BLK, `A..Hw` the registers after RND rounds of it, and in DONE the digest of a message in HEX. -/
def Obligations.EveryStepKeepsTheRunsOnCourse : Prop :=
  ∀ s t : State, s.OnCourse → step s = .next t → t.OnCourse
end

