-- ==== Sys2Proof/Laws/Memory.lean ====
section
/-! SUPPORT. The byte buffers: a write keeps the canonical form, and a read after it gives the bytes written and leaves the others alone. -/

namespace Sys2Proof.Machine

theorem Memory.mem_cells {base : Nat} {bs : List Byte} {c : Host.Cell} (h : c ∈ Memory.cells base bs) :
    base ≤ c.1 ∧ c.1 < base + bs.length := by
  induction bs generalizing base with
  | nil => simp [Memory.cells] at h
  | cons b bs ih =>
    rcases List.mem_cons.mp h with rfl | h
    · simp
    · have := ih h
      simp only [List.length_cons]
      omega

theorem Memory.cells_wf (base : Nat) (bs : List Byte) : (Memory.cells base bs).wf := by
  induction bs generalizing base with
  | nil => exact List.Pairwise.nil
  | cons b bs ih => exact List.Pairwise.cons (fun c hc => (Memory.mem_cells hc).1) (ih _)

theorem Memory.lookup_append (l r : Memory) (a : Nat) :
    List.lookup a (l ++ r) = (List.lookup a l).or (List.lookup a r) := by
  induction l with
  | nil => simp
  | cons c l ih => by_cases h : a == c.1 <;> simp [List.lookup, h, ih]

theorem Memory.lookup_none {m : Memory} {a : Nat} (h : ∀ c ∈ m, c.1 ≠ a) : List.lookup a m = none := by
  induction m with
  | nil => rfl
  | cons c m ih =>
    have hc : (a == c.1) = false := by simpa using fun e => h c (by simp) e.symm
    simp [List.lookup, hc, ih fun d hd => h d (List.mem_cons_of_mem _ hd)]

theorem Memory.lookup_filter {m : Memory} {a : Nat} (q : Host.Cell → Bool) (h : ∀ b, q (a, b) = true) :
    List.lookup a (m.filter q) = List.lookup a m := by
  induction m with
  | nil => rfl
  | cons c m ih =>
    obtain ⟨i, b⟩ := c
    by_cases hi : a = i
    · subst hi; simp [List.filter, h, List.lookup]
    · have : (a == i) = false := by simpa using hi
      by_cases hq : q (i, b) <;> simp [List.filter, hq, List.lookup, this, ih]

theorem Memory.lookup_cells (base : Nat) (bs : List Byte) (a : Nat) :
    List.lookup a (Memory.cells base bs) = if base ≤ a then bs[a - base]? else none := by
  induction bs generalizing base with
  | nil => simp [Memory.cells]
  | cons b bs ih =>
    rw [Memory.cells, List.lookup_cons, ih]
    by_cases h : a = base
    · subst h; simp
    · have hb : (a == base) = false := by simpa using h
      by_cases hl : base ≤ a
      · have e : a - base = (a - (base + 1)) + 1 := by omega
        simp [hb, hl, show base + 1 ≤ a by omega, e]
      · simp [hb, hl, show ¬ base + 1 ≤ a by omega]

/-- A read after a write: the byte written, or what was there before. -/
theorem Memory.read?_writeRange (m : Memory) (base : Nat) (bs : List Byte) (a : Nat) :
    (m.writeRange base bs).read? a =
      if base ≤ a ∧ a < base + bs.length then bs[a - base]? else m.read? a := by
  unfold Memory.read? Memory.writeRange
  rw [Memory.lookup_append, Memory.lookup_append, Memory.lookup_cells]
  by_cases h1 : a < base
  · rw [Memory.lookup_filter (fun c => decide (c.1 < base)) (by simpa using h1)]
    have hr : List.lookup a (m.filter fun c => decide (base + bs.length ≤ c.1)) = none :=
      Memory.lookup_none fun c hc => by
        have := (List.mem_filter.mp hc).2
        simp only [decide_eq_true_eq] at this
        omega
    simp [hr, show ¬ base ≤ a by omega]
  · have hl : List.lookup a (m.filter fun c => decide (c.1 < base)) = none :=
      Memory.lookup_none fun c hc => by
        have := (List.mem_filter.mp hc).2
        simp only [decide_eq_true_eq] at this
        omega
    rw [hl]
    by_cases h2 : a < base + bs.length
    · have : a - base < bs.length := by omega
      simp [show base ≤ a by omega, h2, this]
    · rw [Memory.lookup_filter (fun c => decide (base + bs.length ≤ c.1)) (by intro b; simp; omega)]
      have : bs[a - base]? = none := by simp; omega
      simp [show base ≤ a by omega, h2, this]

/-- Inside the written range a read gives the byte written. -/
theorem Memory.read?_writeRange_inside (m : Memory) {base : Nat} {bs : List Byte} {a : Nat} (h1 : base ≤ a)
    (h2 : a < base + bs.length) : (m.writeRange base bs).read? a = some (bs[a - base]'(by omega)) := by
  rw [Memory.read?_writeRange, if_pos ⟨h1, h2⟩, List.getElem?_eq_getElem]

/-- Outside the written range nothing changes. -/
theorem Memory.read?_writeRange_outside (m : Memory) {base : Nat} {bs : List Byte} {a : Nat}
    (h : a < base ∨ base + bs.length ≤ a) : (m.writeRange base bs).read? a = m.read? a := by
  rw [Memory.read?_writeRange, if_neg (by omega)]

/-- A write keeps the canonical form. -/
theorem Memory.writeRange_wf {m : Memory} (h : m.wf) (base : Nat) (bs : List Byte) : (m.writeRange base bs).wf := by
  unfold Memory.writeRange Memory.wf
  rw [List.pairwise_append, List.pairwise_append]
  refine ⟨⟨List.Pairwise.filter _ h, Memory.cells_wf base bs, ?_⟩, List.Pairwise.filter _ h, ?_⟩
  · intro c hc d hd
    have h1 := (List.mem_filter.mp hc).2
    have h2 := Memory.mem_cells hd
    simp only [decide_eq_true_eq] at h1
    omega
  · intro c hc d hd
    have h2 := (List.mem_filter.mp hd).2
    simp only [decide_eq_true_eq] at h2
    rcases List.mem_append.mp hc with hc | hc
    · have h1 := (List.mem_filter.mp hc).2
      simp only [decide_eq_true_eq] at h1
      omega
    · have h1 := Memory.mem_cells hc
      omega

/-- A write adds no index beyond its range. -/
theorem Memory.writeRange_bound {m : Memory} {base n : Nat} {bs : List Byte} (h : ∀ c ∈ m, c.1 < n)
    (hn : base + bs.length ≤ n) : ∀ c ∈ m.writeRange base bs, c.1 < n := by
  intro c hc
  unfold Memory.writeRange at hc
  rcases List.mem_append.mp hc with hc | hc
  · rcases List.mem_append.mp hc with hc | hc
    · exact h c (List.mem_filter.mp hc).1
    · exact lt_of_lt_of_le (Memory.mem_cells hc).2 hn
  · exact h c (List.mem_filter.mp hc).1

/-- The buffer with nothing written is canonical, and every read of it answers "nothing written". -/
theorem Memory.nil_wf : Memory.wf [] := List.Pairwise.nil

@[simp] theorem Memory.read?_nil (a : Nat) : Memory.read? [] a = none := rfl

/-- Canonical buffers that read alike are equal, so equal buffers are equal data. -/
theorem Memory.ext {m n : Memory} (hm : m.wf) (hn : n.wf) (h : ∀ a, m.read? a = n.read? a) : m = n := by
  induction m generalizing n with
  | nil =>
    cases n with
    | nil => rfl
    | cons d n => have := h d.1; simp [Memory.read?, List.lookup] at this
  | cons c m ih =>
    cases n with
    | nil => have := h c.1; simp [Memory.read?, List.lookup] at this
    | cons d n =>
      obtain ⟨i, b⟩ := c
      obtain ⟨j, e⟩ := d
      have hm' := List.pairwise_cons.mp hm
      have hn' := List.pairwise_cons.mp hn
      have outside : ∀ {l : Memory} {a x : Nat}, (∀ c ∈ l, a < c.1) → x ≤ a → List.lookup x l = none :=
        fun hl hx => Memory.lookup_none fun c hc e => by have := hl c hc; omega
      have hij : i = j := by
        rcases Nat.lt_trichotomy i j with hlt | heq | hgt
        · have := h i
          have hne : (i == j) = false := by simp; omega
          simp [Memory.read?, List.lookup, hne, outside hn'.1 (by omega : i ≤ j)] at this
        · exact heq
        · have := h j
          have hne : (j == i) = false := by simp; omega
          simp [Memory.read?, List.lookup, hne, outside hm'.1 (by omega : j ≤ i)] at this
      subst hij
      have hbe : b = e := by have := h i; simpa [Memory.read?, List.lookup] using this
      subst hbe
      rw [ih hm'.2 hn'.2 fun a => ?_]
      have ha := h a
      by_cases hai : a = i
      · subst hai
        simp [Memory.read?, outside hm'.1 (le_refl a), outside hn'.1 (le_refl a)]
      · have : (a == i) = false := by simpa using hai
        simpa [Memory.read?, List.lookup, this] using ha

end Sys2Proof.Machine
end

