-- ==== Sys2Proof/Laws/State.lean ====
section
/-! SUPPORT. The state's accessors after its updates: one fact per field per update. -/

namespace Sys2Proof.Machine

/-! ## Replacing one instance -/

@[simp] theorem State.engine_setEngine (s : State) (v : Variant) (e : Engine v) : (s.setEngine v e).engine v = e := by
  cases v <;> rfl

@[simp] theorem State.engine_setEngine_e32_e64 (s : State) (e : Engine .e32) : (s.setEngine .e32 e).engine .e64 = s.engine .e64 := rfl

@[simp] theorem State.engine_setEngine_e64_e32 (s : State) (e : Engine .e64) : (s.setEngine .e64 e).engine .e32 = s.engine .e32 := rfl

theorem State.engine_setEngine_ne (s : State) {v u : Variant} (h : u ≠ v) (e : Engine v) :
    (s.setEngine v e).engine u = s.engine u := by
  cases v <;> cases u <;> first | exact absurd rfl h | rfl

@[simp] theorem State.par_setEngine (s : State) (v : Variant) (e : Engine v) : (s.setEngine v e).par = s.par := by
  cases v <;> rfl

@[simp] theorem State.inbox_setEngine (s : State) (v : Variant) (e : Engine v) : (s.setEngine v e).inbox = s.inbox := by
  cases v <;> rfl

@[simp] theorem State.picks_setEngine (s : State) (v : Variant) (e : Engine v) : (s.setEngine v e).picks = s.picks := by
  cases v <;> rfl

@[simp] theorem State.rdata_setEngine (s : State) (v : Variant) (e : Engine v) (u : Variant) : (s.setEngine v e).rdata u = s.rdata u := by
  cases v <;> cases u <;> rfl

@[simp] theorem State.setEngine_engine (s : State) (v : Variant) : s.setEngine v (s.engine v) = s := by
  cases v <;> rfl

@[simp] theorem State.setEngine_setEngine (s : State) (v : Variant) (e f : Engine v) :
    (s.setEngine v e).setEngine v f = s.setEngine v f := by
  cases v <;> rfl

/-- Replacing different instances commutes (R63). -/
theorem State.setEngine_comm (s : State) (e : Engine .e32) (f : Engine .e64) :
    (s.setEngine .e32 e).setEngine .e64 f = (s.setEngine .e64 f).setEngine .e32 e := rfl

/-! ## Recording a read's answer -/

@[simp] theorem State.rdata_setRdata (s : State) (v : Variant) (x : Bus32) : (s.setRdata v x).rdata v = x := by
  cases v <;> rfl

theorem State.rdata_setRdata_ne (s : State) {v u : Variant} (h : u ≠ v) (x : Bus32) : (s.setRdata v x).rdata u = s.rdata u := by
  cases v <;> cases u <;> first | exact absurd rfl h | rfl

@[simp] theorem State.engine_setRdata (s : State) (v : Variant) (x : Bus32) (u : Variant) : (s.setRdata v x).engine u = s.engine u := by
  cases v <;> cases u <;> rfl

@[simp] theorem State.par_setRdata (s : State) (v : Variant) (x : Bus32) : (s.setRdata v x).par = s.par := by
  cases v <;> rfl

@[simp] theorem State.inbox_setRdata (s : State) (v : Variant) (x : Bus32) : (s.setRdata v x).inbox = s.inbox := by
  cases v <;> rfl

@[simp] theorem State.picks_setRdata (s : State) (v : Variant) (x : Bus32) : (s.setRdata v x).picks = s.picks := by
  cases v <;> rfl

/-! ## One instance changing -/

@[simp] theorem State.engine_modify (s : State) (v : Variant) (f : Engine v → Engine v) : (s.modify v f).engine v = f (s.engine v) := by
  simp [State.modify]

theorem State.engine_modify_ne (s : State) {v u : Variant} (h : u ≠ v) (f : Engine v → Engine v) :
    (s.modify v f).engine u = s.engine u := State.engine_setEngine_ne s h _

@[simp] theorem State.par_modify (s : State) (v : Variant) (f : Engine v → Engine v) : (s.modify v f).par = s.par := by
  simp [State.modify]

@[simp] theorem State.inbox_modify (s : State) (v : Variant) (f : Engine v → Engine v) : (s.modify v f).inbox = s.inbox := by
  simp [State.modify]

@[simp] theorem State.picks_modify (s : State) (v : Variant) (f : Engine v → Engine v) : (s.modify v f).picks = s.picks := by
  simp [State.modify]

@[simp] theorem State.rdata_modify (s : State) (v : Variant) (f : Engine v → Engine v) (u : Variant) :
    (s.modify v f).rdata u = s.rdata u := by
  simp [State.modify]

/-! ## A read of one instance -/

@[simp] theorem State.engine_read (s : State) (v : Variant) (f : Engine v → Engine v × Bus32) :
    (s.read v f).engine v = (f (s.engine v)).1 := by
  simp [State.read]

theorem State.engine_read_ne (s : State) {v u : Variant} (h : u ≠ v) (f : Engine v → Engine v × Bus32) :
    (s.read v f).engine u = s.engine u := by
  simp [State.read, State.engine_setEngine_ne s h]

@[simp] theorem State.rdata_read (s : State) (v : Variant) (f : Engine v → Engine v × Bus32) :
    (s.read v f).rdata v = (f (s.engine v)).2 := by
  simp [State.read]

theorem State.rdata_read_ne (s : State) {v u : Variant} (h : u ≠ v) (f : Engine v → Engine v × Bus32) :
    (s.read v f).rdata u = s.rdata u := by
  simp [State.read, State.rdata_setRdata_ne _ h]

@[simp] theorem State.par_read (s : State) (v : Variant) (f : Engine v → Engine v × Bus32) : (s.read v f).par = s.par := by
  simp [State.read]

@[simp] theorem State.inbox_read (s : State) (v : Variant) (f : Engine v → Engine v × Bus32) : (s.read v f).inbox = s.inbox := by
  simp [State.read]

@[simp] theorem State.picks_read (s : State) (v : Variant) (f : Engine v → Engine v × Bus32) : (s.read v f).picks = s.picks := by
  simp [State.read]

/-! ## Reset (R48) -/

@[simp] theorem State.engine_resetWith_par (p : Params) : (State.resetWith p).par = p := rfl

@[simp] theorem State.engine_resetWith (p : Params) (v : Variant) :
    (State.resetWith p).engine v = Engine.atReset v 0 (Working.zero v) (match v with
      | .e32 => Vector.replicate 64 0#32
      | .e64 => Vector.replicate 80 0#64) := by
  cases v <;> rfl

end Sys2Proof.Machine
end

