-- ==== Sys2Proof/Laws/Engine.lean ====
section
/-! SUPPORT. The instance operations, field by field, and for each shared operation everything it can do. -/

namespace Sys2Proof.Machine

variable {v : Variant} (e : Engine v)

/-! ## Field by field -/

/-! clearError -/

@[simp] theorem Engine.clearError_phase : (e.clearError).phase = e.phase := rfl
@[simp] theorem Engine.clearError_blk : (e.clearError).blk = e.blk := rfl
@[simp] theorem Engine.clearError_rnd : (e.clearError).rnd = e.rnd := rfl
@[simp] theorem Engine.clearError_nblk : (e.clearError).nblk = e.nblk := rfl
@[simp] theorem Engine.clearError_padLen : (e.clearError).padLen = e.padLen := rfl
@[simp] theorem Engine.clearError_msgLen : (e.clearError).msgLen = e.msgLen := rfl
@[simp] theorem Engine.clearError_err : (e.clearError).err = false := rfl
@[simp] theorem Engine.clearError_errCode : (e.clearError).errCode = 0#4 := rfl
@[simp] theorem Engine.clearError_h : (e.clearError).h = e.h := rfl
@[simp] theorem Engine.clearError_work : (e.clearError).work = e.work := rfl
@[simp] theorem Engine.clearError_sched : (e.clearError).sched = e.sched := rfl
@[simp] theorem Engine.clearError_hex : (e.clearError).hex = e.hex := rfl
@[simp] theorem Engine.clearError_msg : (e.clearError).msg = e.msg := rfl
@[simp] theorem Engine.clearError_padBuf : (e.clearError).padBuf = e.padBuf := rfl
@[simp] theorem Engine.clearError_epoch : (e.clearError).epoch = e.epoch := rfl

/-! storeMsg -/

@[simp] theorem Engine.storeMsg_phase (off : Nat) (bs : List Byte) : (e.storeMsg off bs).phase = e.phase := rfl
@[simp] theorem Engine.storeMsg_blk (off : Nat) (bs : List Byte) : (e.storeMsg off bs).blk = e.blk := rfl
@[simp] theorem Engine.storeMsg_rnd (off : Nat) (bs : List Byte) : (e.storeMsg off bs).rnd = e.rnd := rfl
@[simp] theorem Engine.storeMsg_nblk (off : Nat) (bs : List Byte) : (e.storeMsg off bs).nblk = e.nblk := rfl
@[simp] theorem Engine.storeMsg_padLen (off : Nat) (bs : List Byte) : (e.storeMsg off bs).padLen = e.padLen := rfl
@[simp] theorem Engine.storeMsg_msgLen (off : Nat) (bs : List Byte) : (e.storeMsg off bs).msgLen = e.msgLen := rfl
@[simp] theorem Engine.storeMsg_err (off : Nat) (bs : List Byte) : (e.storeMsg off bs).err = e.err := rfl
@[simp] theorem Engine.storeMsg_errCode (off : Nat) (bs : List Byte) : (e.storeMsg off bs).errCode = e.errCode := rfl
@[simp] theorem Engine.storeMsg_h (off : Nat) (bs : List Byte) : (e.storeMsg off bs).h = e.h := rfl
@[simp] theorem Engine.storeMsg_work (off : Nat) (bs : List Byte) : (e.storeMsg off bs).work = e.work := rfl
@[simp] theorem Engine.storeMsg_sched (off : Nat) (bs : List Byte) : (e.storeMsg off bs).sched = e.sched := rfl
@[simp] theorem Engine.storeMsg_hex (off : Nat) (bs : List Byte) : (e.storeMsg off bs).hex = e.hex := rfl
@[simp] theorem Engine.storeMsg_msg (off : Nat) (bs : List Byte) : (e.storeMsg off bs).msg = e.msg.writeRange (off - 0x1000) bs := rfl
@[simp] theorem Engine.storeMsg_padBuf (off : Nat) (bs : List Byte) : (e.storeMsg off bs).padBuf = e.padBuf := rfl
@[simp] theorem Engine.storeMsg_epoch (off : Nat) (bs : List Byte) : (e.storeMsg off bs).epoch = e.epoch := rfl

/-! clear -/

@[simp] theorem Engine.clear_phase : (e.clear).phase = 0#4 := rfl
@[simp] theorem Engine.clear_blk : (e.clear).blk = 0#32 := rfl
@[simp] theorem Engine.clear_rnd : (e.clear).rnd = 0#8 := rfl
@[simp] theorem Engine.clear_nblk : (e.clear).nblk = 0#32 := rfl
@[simp] theorem Engine.clear_padLen : (e.clear).padLen = 0#32 := rfl
@[simp] theorem Engine.clear_msgLen : (e.clear).msgLen = e.msgLen := rfl
@[simp] theorem Engine.clear_err : (e.clear).err = false := rfl
@[simp] theorem Engine.clear_errCode : (e.clear).errCode = 0#4 := rfl
@[simp] theorem Engine.clear_h : (e.clear).h = iv v := rfl
@[simp] theorem Engine.clear_work : (e.clear).work = e.work := rfl
@[simp] theorem Engine.clear_sched : (e.clear).sched = e.sched := rfl
@[simp] theorem Engine.clear_hex : (e.clear).hex = Vector.replicate 128 0x00#8 := rfl
@[simp] theorem Engine.clear_msg : (e.clear).msg = e.msg := rfl
@[simp] theorem Engine.clear_padBuf : (e.clear).padBuf = e.padBuf := rfl
@[simp] theorem Engine.clear_epoch : (e.clear).epoch = e.epoch := rfl

/-! init -/

@[simp] theorem Engine.init_phase : (e.init).phase = 2#4 := rfl
@[simp] theorem Engine.init_blk : (e.init).blk = 0#32 := rfl
@[simp] theorem Engine.init_rnd : (e.init).rnd = 0#8 := rfl
@[simp] theorem Engine.init_nblk : (e.init).nblk = 0#32 := rfl
@[simp] theorem Engine.init_padLen : (e.init).padLen = e.padLen := rfl
@[simp] theorem Engine.init_msgLen : (e.init).msgLen = e.msgLen := rfl
@[simp] theorem Engine.init_err : (e.init).err = e.err := rfl
@[simp] theorem Engine.init_errCode : (e.init).errCode = e.errCode := rfl
@[simp] theorem Engine.init_h : (e.init).h = iv v := rfl
@[simp] theorem Engine.init_work : (e.init).work = e.work := rfl
@[simp] theorem Engine.init_sched : (e.init).sched = e.sched := rfl
@[simp] theorem Engine.init_hex : (e.init).hex = e.hex := rfl
@[simp] theorem Engine.init_msg : (e.init).msg = e.msg := rfl
@[simp] theorem Engine.init_padBuf : (e.init).padBuf = e.padBuf := rfl
@[simp] theorem Engine.init_epoch : (e.init).epoch = e.epoch := rfl

/-! pad -/

@[simp] theorem Engine.pad_phase : (e.pad).phase = 3#4 := rfl
@[simp] theorem Engine.pad_blk : (e.pad).blk = e.blk := rfl
@[simp] theorem Engine.pad_rnd : (e.pad).rnd = e.rnd := rfl
@[simp] theorem Engine.pad_nblk : (e.pad).nblk = e.nblk := rfl
@[simp] theorem Engine.pad_padLen : (e.pad).padLen = BitVec.ofNat 32 (paddedLen v e.msgLen.toNat) := rfl
@[simp] theorem Engine.pad_msgLen : (e.pad).msgLen = e.msgLen := rfl
@[simp] theorem Engine.pad_err : (e.pad).err = e.err := rfl
@[simp] theorem Engine.pad_errCode : (e.pad).errCode = e.errCode := rfl
@[simp] theorem Engine.pad_h : (e.pad).h = e.h := rfl
@[simp] theorem Engine.pad_work : (e.pad).work = e.work := rfl
@[simp] theorem Engine.pad_sched : (e.pad).sched = e.sched := rfl
@[simp] theorem Engine.pad_hex : (e.pad).hex = e.hex := rfl
@[simp] theorem Engine.pad_msg : (e.pad).msg = e.msg := rfl
@[simp] theorem Engine.pad_padBuf : (e.pad).padBuf = e.padBuf.writeRange 0 (paddedBytes v (e.message e.msgLen.toNat)) := rfl
@[simp] theorem Engine.pad_epoch : (e.pad).epoch = e.epoch := rfl

/-! segment -/

@[simp] theorem Engine.segment_phase : (e.segment).phase = 4#4 := rfl
@[simp] theorem Engine.segment_blk : (e.segment).blk = 0#32 := rfl
@[simp] theorem Engine.segment_rnd : (e.segment).rnd = e.rnd := rfl
@[simp] theorem Engine.segment_nblk : (e.segment).nblk = BitVec.ofNat 32 (e.padLen.toNat / blockBytes v) := rfl
@[simp] theorem Engine.segment_padLen : (e.segment).padLen = e.padLen := rfl
@[simp] theorem Engine.segment_msgLen : (e.segment).msgLen = e.msgLen := rfl
@[simp] theorem Engine.segment_err : (e.segment).err = e.err := rfl
@[simp] theorem Engine.segment_errCode : (e.segment).errCode = e.errCode := rfl
@[simp] theorem Engine.segment_h : (e.segment).h = e.h := rfl
@[simp] theorem Engine.segment_work : (e.segment).work = e.work := rfl
@[simp] theorem Engine.segment_sched : (e.segment).sched = e.sched := rfl
@[simp] theorem Engine.segment_hex : (e.segment).hex = e.hex := rfl
@[simp] theorem Engine.segment_msg : (e.segment).msg = e.msg := rfl
@[simp] theorem Engine.segment_padBuf : (e.segment).padBuf = e.padBuf := rfl
@[simp] theorem Engine.segment_epoch : (e.segment).epoch = e.epoch := rfl

/-! expand -/

@[simp] theorem Engine.expand_phase : (e.expand).phase = 5#4 := rfl
@[simp] theorem Engine.expand_blk : (e.expand).blk = e.blk := rfl
@[simp] theorem Engine.expand_rnd : (e.expand).rnd = 0#8 := rfl
@[simp] theorem Engine.expand_nblk : (e.expand).nblk = e.nblk := rfl
@[simp] theorem Engine.expand_padLen : (e.expand).padLen = e.padLen := rfl
@[simp] theorem Engine.expand_msgLen : (e.expand).msgLen = e.msgLen := rfl
@[simp] theorem Engine.expand_err : (e.expand).err = e.err := rfl
@[simp] theorem Engine.expand_errCode : (e.expand).errCode = e.errCode := rfl
@[simp] theorem Engine.expand_h : (e.expand).h = e.h := rfl
@[simp] theorem Engine.expand_work : (e.expand).work = Working.ofWords e.h := rfl
@[simp] theorem Engine.expand_sched : (e.expand).sched = schedule v (fun t => e.blockWord e.blk.toNat t.val) := rfl
@[simp] theorem Engine.expand_hex : (e.expand).hex = e.hex := rfl
@[simp] theorem Engine.expand_msg : (e.expand).msg = e.msg := rfl
@[simp] theorem Engine.expand_padBuf : (e.expand).padBuf = e.padBuf := rfl
@[simp] theorem Engine.expand_epoch : (e.expand).epoch = e.epoch := rfl

/-! round -/

@[simp] theorem Engine.round_phase : (e.round).phase = (if e.rnd.toNat + 1 = v.rounds then 6#4 else 5#4) := rfl
@[simp] theorem Engine.round_blk : (e.round).blk = e.blk := rfl
@[simp] theorem Engine.round_rnd : (e.round).rnd = e.rnd + 1#8 := rfl
@[simp] theorem Engine.round_nblk : (e.round).nblk = e.nblk := rfl
@[simp] theorem Engine.round_padLen : (e.round).padLen = e.padLen := rfl
@[simp] theorem Engine.round_msgLen : (e.round).msgLen = e.msgLen := rfl
@[simp] theorem Engine.round_err : (e.round).err = e.err := rfl
@[simp] theorem Engine.round_errCode : (e.round).errCode = e.errCode := rfl
@[simp] theorem Engine.round_h : (e.round).h = e.h := rfl
@[simp] theorem Engine.round_work : (e.round).work = e.work.round (roundConst v e.rnd.toNat) (e.schedWord e.rnd.toNat) := rfl
@[simp] theorem Engine.round_sched : (e.round).sched = e.sched := rfl
@[simp] theorem Engine.round_hex : (e.round).hex = e.hex := rfl
@[simp] theorem Engine.round_msg : (e.round).msg = e.msg := rfl
@[simp] theorem Engine.round_padBuf : (e.round).padBuf = e.padBuf := rfl
@[simp] theorem Engine.round_epoch : (e.round).epoch = e.epoch := rfl

/-! update -/

@[simp] theorem Engine.update_phase : (e.update).phase = (if (e.blk + 1#32).toNat < e.nblk.toNat then 4#4 else 7#4) := rfl
@[simp] theorem Engine.update_blk : (e.update).blk = e.blk + 1#32 := rfl
@[simp] theorem Engine.update_rnd : (e.update).rnd = e.rnd := rfl
@[simp] theorem Engine.update_nblk : (e.update).nblk = e.nblk := rfl
@[simp] theorem Engine.update_padLen : (e.update).padLen = e.padLen := rfl
@[simp] theorem Engine.update_msgLen : (e.update).msgLen = e.msgLen := rfl
@[simp] theorem Engine.update_err : (e.update).err = e.err := rfl
@[simp] theorem Engine.update_errCode : (e.update).errCode = e.errCode := rfl
@[simp] theorem Engine.update_h : (e.update).h = addWorking e.h e.work := rfl
@[simp] theorem Engine.update_work : (e.update).work = e.work := rfl
@[simp] theorem Engine.update_sched : (e.update).sched = e.sched := rfl
@[simp] theorem Engine.update_hex : (e.update).hex = e.hex := rfl
@[simp] theorem Engine.update_msg : (e.update).msg = e.msg := rfl
@[simp] theorem Engine.update_padBuf : (e.update).padBuf = e.padBuf := rfl
@[simp] theorem Engine.update_epoch : (e.update).epoch = e.epoch := rfl

/-! assemble -/

@[simp] theorem Engine.assemble_phase : (e.assemble).phase = 8#4 := rfl
@[simp] theorem Engine.assemble_blk : (e.assemble).blk = e.blk := rfl
@[simp] theorem Engine.assemble_rnd : (e.assemble).rnd = e.rnd := rfl
@[simp] theorem Engine.assemble_nblk : (e.assemble).nblk = e.nblk := rfl
@[simp] theorem Engine.assemble_padLen : (e.assemble).padLen = e.padLen := rfl
@[simp] theorem Engine.assemble_msgLen : (e.assemble).msgLen = e.msgLen := rfl
@[simp] theorem Engine.assemble_err : (e.assemble).err = e.err := rfl
@[simp] theorem Engine.assemble_errCode : (e.assemble).errCode = e.errCode := rfl
@[simp] theorem Engine.assemble_h : (e.assemble).h = e.h := rfl
@[simp] theorem Engine.assemble_work : (e.assemble).work = e.work := rfl
@[simp] theorem Engine.assemble_sched : (e.assemble).sched = e.sched := rfl
@[simp] theorem Engine.assemble_hex : (e.assemble).hex = hexBuffer v e.h := rfl
@[simp] theorem Engine.assemble_msg : (e.assemble).msg = e.msg := rfl
@[simp] theorem Engine.assemble_padBuf : (e.assemble).padBuf = e.padBuf := rfl
@[simp] theorem Engine.assemble_epoch : (e.assemble).epoch = e.epoch := rfl

/-! raise -/

@[simp] theorem Engine.raise_phase (c : IfaceError) : (e.raise c).phase = e.phase := by unfold Engine.raise; split <;> rfl
@[simp] theorem Engine.raise_blk (c : IfaceError) : (e.raise c).blk = e.blk := by unfold Engine.raise; split <;> rfl
@[simp] theorem Engine.raise_rnd (c : IfaceError) : (e.raise c).rnd = e.rnd := by unfold Engine.raise; split <;> rfl
@[simp] theorem Engine.raise_nblk (c : IfaceError) : (e.raise c).nblk = e.nblk := by unfold Engine.raise; split <;> rfl
@[simp] theorem Engine.raise_padLen (c : IfaceError) : (e.raise c).padLen = e.padLen := by unfold Engine.raise; split <;> rfl
@[simp] theorem Engine.raise_msgLen (c : IfaceError) : (e.raise c).msgLen = e.msgLen := by unfold Engine.raise; split <;> rfl
@[simp] theorem Engine.raise_h (c : IfaceError) : (e.raise c).h = e.h := by unfold Engine.raise; split <;> rfl
@[simp] theorem Engine.raise_work (c : IfaceError) : (e.raise c).work = e.work := by unfold Engine.raise; split <;> rfl
@[simp] theorem Engine.raise_sched (c : IfaceError) : (e.raise c).sched = e.sched := by unfold Engine.raise; split <;> rfl
@[simp] theorem Engine.raise_hex (c : IfaceError) : (e.raise c).hex = e.hex := by unfold Engine.raise; split <;> rfl
@[simp] theorem Engine.raise_msg (c : IfaceError) : (e.raise c).msg = e.msg := by unfold Engine.raise; split <;> rfl
@[simp] theorem Engine.raise_padBuf (c : IfaceError) : (e.raise c).padBuf = e.padBuf := by unfold Engine.raise; split <;> rfl
@[simp] theorem Engine.raise_epoch (c : IfaceError) : (e.raise c).epoch = e.epoch := by unfold Engine.raise; split <;> rfl

@[simp] theorem Engine.raise_err (c : IfaceError) : (e.raise c).err = true := by
  unfold Engine.raise; split <;> simp_all

theorem Engine.raise_errCode (c : IfaceError) : (e.raise c).errCode = if e.err then e.errCode else c.code := by
  unfold Engine.raise; split <;> rfl

/-- A second error changes nothing: the first code is kept (R252). -/
theorem Engine.raise_of_err {e : Engine v} (h : e.err = true) (c : IfaceError) : e.raise c = e := by simp [Engine.raise, h]

/-! start -/

@[simp] theorem Engine.start_blk (p : Params) : (e.start p).blk = e.blk := by unfold Engine.start; split <;> [skip; split] <;> simp
@[simp] theorem Engine.start_rnd (p : Params) : (e.start p).rnd = e.rnd := by unfold Engine.start; split <;> [skip; split] <;> simp
@[simp] theorem Engine.start_nblk (p : Params) : (e.start p).nblk = e.nblk := by unfold Engine.start; split <;> [skip; split] <;> simp
@[simp] theorem Engine.start_padLen (p : Params) : (e.start p).padLen = e.padLen := by unfold Engine.start; split <;> [skip; split] <;> simp
@[simp] theorem Engine.start_msgLen (p : Params) : (e.start p).msgLen = e.msgLen := by unfold Engine.start; split <;> [skip; split] <;> simp
@[simp] theorem Engine.start_h (p : Params) : (e.start p).h = e.h := by unfold Engine.start; split <;> [skip; split] <;> simp
@[simp] theorem Engine.start_work (p : Params) : (e.start p).work = e.work := by unfold Engine.start; split <;> [skip; split] <;> simp
@[simp] theorem Engine.start_sched (p : Params) : (e.start p).sched = e.sched := by unfold Engine.start; split <;> [skip; split] <;> simp
@[simp] theorem Engine.start_hex (p : Params) : (e.start p).hex = e.hex := by unfold Engine.start; split <;> [skip; split] <;> simp
@[simp] theorem Engine.start_msg (p : Params) : (e.start p).msg = e.msg := by unfold Engine.start; split <;> [skip; split] <;> simp
@[simp] theorem Engine.start_padBuf (p : Params) : (e.start p).padBuf = e.padBuf := by unfold Engine.start; split <;> [skip; split] <;> simp
@[simp] theorem Engine.start_epoch (p : Params) : (e.start p).epoch = e.epoch := by unfold Engine.start; split <;> [skip; split] <;> simp

/-! resetEvent -/

@[simp] theorem Engine.resetEvent_phase : e.resetEvent.phase = 0#4 := rfl
@[simp] theorem Engine.resetEvent_blk : e.resetEvent.blk = 0#32 := rfl
@[simp] theorem Engine.resetEvent_rnd : e.resetEvent.rnd = 0#8 := rfl
@[simp] theorem Engine.resetEvent_nblk : e.resetEvent.nblk = 0#32 := rfl
@[simp] theorem Engine.resetEvent_padLen : e.resetEvent.padLen = 0#32 := rfl
@[simp] theorem Engine.resetEvent_msgLen : e.resetEvent.msgLen = 0#32 := rfl
@[simp] theorem Engine.resetEvent_err : e.resetEvent.err = false := rfl
@[simp] theorem Engine.resetEvent_errCode : e.resetEvent.errCode = 0#4 := rfl
@[simp] theorem Engine.resetEvent_h : e.resetEvent.h = iv v := rfl
@[simp] theorem Engine.resetEvent_work : e.resetEvent.work = Working.drawn v (e.epoch + 1) := rfl
@[simp] theorem Engine.resetEvent_sched : e.resetEvent.sched = Vector.ofFn fun t => Config.schedDraw v (e.epoch + 1) t.val := rfl
@[simp] theorem Engine.resetEvent_hex : e.resetEvent.hex = Vector.replicate 128 0x00#8 := rfl
@[simp] theorem Engine.resetEvent_msg : e.resetEvent.msg = [] := rfl
@[simp] theorem Engine.resetEvent_padBuf : e.resetEvent.padBuf = [] := rfl
@[simp] theorem Engine.resetEvent_epoch : e.resetEvent.epoch = e.epoch + 1 := rfl

/-! ## Flags -/

theorem Engine.busy_iff : e.busy = true ↔ 1 ≤ e.phase.toNat ∧ e.phase.toNat ≤ 7 := by simp [Engine.busy]

theorem Engine.busy_congr {e f : Engine v} (h : e.phase = f.phase) : e.busy = f.busy := by simp [Engine.busy, h]

@[simp] theorem Engine.raise_busy (c : IfaceError) : (e.raise c).busy = e.busy := Engine.busy_congr (by simp)

@[simp] theorem Engine.clearError_busy : e.clearError.busy = e.busy := rfl

@[simp] theorem Engine.storeMsg_busy (off : Nat) (bs : List Byte) : (e.storeMsg off bs).busy = e.busy := rfl

/-! ## Everything an operation can do -/

theorem aligned_iff (off : Bus32) : aligned off = true ↔ off.toNat % 4 = 0 := by simp [aligned]

theorem region_msgwin_iff (p : Params) (off : Nat) : region p off = .msgwin ↔ 0x1000 ≤ off ∧ off < 0x1000 + msgCap p := by
  unfold region; split_ifs <;> simp <;> omega

theorem region_control_iff (p : Params) (off : Nat) : region p off = .control ↔ off < 0x100 := by
  unfold region; split_ifs <;> simp <;> omega

theorem msgCap_mod (p : Params) : msgCap p % 4 = 0 := by unfold msgCap; omega

theorem msgCap_le (p : Params) : msgCap p ≤ 2 ^ 24 := by
  have := p.capWords.isLt
  unfold msgCap
  omega

/-- START records an error or goes to INIT; the latter only when the instance is not busy and the length fits (R219). -/
theorem Engine.start_cases (p : Params) :
    (e.busy = true ∧ e.start p = e.raise .busyCmd) ∨
    (e.busy = false ∧ msgCap p < e.msgLen.toNat ∧ e.start p = e.raise .lenRange) ∨
    (e.busy = false ∧ e.msgLen.toNat ≤ msgCap p ∧ e.start p = { e with phase := 1#4 }) := by
  unfold Engine.start
  by_cases hb : e.busy = true
  · exact .inl ⟨hb, by simp [hb]⟩
  · have hb' : e.busy = false := by simpa using hb
    by_cases hl : msgCap p < e.msgLen.toNat
    · exact .inr (.inl ⟨hb', hl, by simp [hb', hl]⟩)
    · exact .inr (.inr ⟨hb', by omega, by simp [hb', hl]⟩)

/-- A command word does nothing, records BAD_CMD, or is START, CLEAR or CLRERR (R217). -/
theorem Engine.execCmd_cases (p : Params) (word : Bus32) :
    e.execCmd p word = e ∨ e.execCmd p word = e.raise .badCmd ∨ e.execCmd p word = e.start p ∨
      (commandRsv word = 0#28 ∧ commandOp word = 2#4 ∧ e.execCmd p word = e.clear) ∨ e.execCmd p word = e.clearError := by
  unfold Engine.execCmd
  split_ifs with h1 h2 h3 h4
  · exact .inr (.inl rfl)
  · exact .inl rfl
  · exact .inr (.inr (.inl rfl))
  · exact .inr (.inr (.inr (.inl ⟨by simp_all, h4, rfl⟩)))
  · exact .inr (.inr (.inr (.inr rfl)))

/-- RD32 changes nothing but the error record, and that only for a misaligned offset, where it returns 0 (R212). -/
theorem Engine.rd32_cases (p : Params) (off : Bus32) :
    (off.toNat % 4 = 0 ∧ (e.rd32 p off).1 = e) ∨
    (off.toNat % 4 ≠ 0 ∧ e.rd32 p off = (e.raise .misaligned, 0#32)) := by
  by_cases h : off.toNat % 4 = 0
  · refine .inl ⟨h, ?_⟩
    simp only [Engine.rd32, (aligned_iff off).mpr h, Bool.not_true, Bool.false_eq_true, if_false]
    split <;> rfl
  · exact .inr ⟨h, by simp [Engine.rd32, aligned, h]⟩

/-- RD8 changes nothing but the error record, and that only for an offset in CONTROL, where it returns 0 (R213). -/
theorem Engine.rd8_cases (p : Params) (off : Bus32) :
    (0x100 ≤ off.toNat ∧ e.rd8 p off = (e, (e.byteAt p off.toNat).zeroExtend 32)) ∨
    (off.toNat < 0x100 ∧ e.rd8 p off = (e.raise .badWidth, 0#32)) := by
  by_cases h : off.toNat < 0x100
  · exact .inr ⟨h, by simp [Engine.rd8, (region_control_iff p _).mpr h]⟩
  · refine .inl ⟨by omega, ?_⟩
    have : ¬ region p off.toNat = .control := fun hc => h ((region_control_iff p _).mp hc)
    simp [Engine.rd8, this]

/-- Everything a WR32 can do to an instance (R214). -/
theorem Engine.wr32_cases (p : Params) (off wdata : Bus32) :
    e.wr32 p off wdata = e ∨ (∃ c, e.wr32 p off wdata = e.raise c) ∨
    (e.busy = false ∧ off = 0x00C#32 ∧ e.wr32 p off wdata = { e with msgLen := wdata }) ∨
    (off = 0x004#32 ∧ e.wr32 p off wdata = e.execCmd p wdata) ∨
    (e.busy = false ∧ off.toNat % 4 = 0 ∧ region p off.toNat = .msgwin ∧ e.wr32 p off wdata = e.storeMsg off.toNat (lanes wdata)) := by
  unfold Engine.wr32
  split_ifs with h1 h2 h3 h4 h5
  · exact .inr (.inl ⟨_, rfl⟩)
  · exact .inr (.inl ⟨_, rfl⟩)
  · exact .inr (.inr (.inl ⟨by by_contra hb; exact h2 ⟨.inr h3, by simpa using hb⟩, h3, rfl⟩))
  · exact .inr (.inr (.inr (.inl ⟨h4, rfl⟩)))
  · refine .inr (.inr (.inr (.inr ⟨by by_contra hb; exact h2 ⟨.inl h5, by simpa using hb⟩, ?_, h5, rfl⟩)))
    exact (aligned_iff off).mp (by simpa using h1)
  · exact .inl rfl

/-- Everything a WR8 can do to an instance (R215). -/
theorem Engine.wr8_cases (p : Params) (off wdata : Bus32) :
    e.wr8 p off wdata = e ∨ (∃ c, e.wr8 p off wdata = e.raise c) ∨
    (e.busy = false ∧ region p off.toNat = .msgwin ∧ e.wr8 p off wdata = e.storeMsg off.toNat [lane wdata 0]) := by
  unfold Engine.wr8
  split
  · exact .inr (.inl ⟨_, rfl⟩)
  · next h =>
    by_cases hb : e.busy = true
    · exact .inr (.inl ⟨_, by simp [hb]; rfl⟩)
    · exact .inr (.inr ⟨by simpa using hb, h, by simp [hb]⟩)
  all_goals exact .inl rfl

end Sys2Proof.Machine
end

