-- ==== Sys2Proof/Laws/Operands.lean ====
section
/-! SUPPORT. Operand assembly and the window's bytes: lanes, big-endian bytes, the padded message's length, and what `ByteAt` gives in each region. -/

namespace Sys2Proof.Machine

/-- Concatenation as a number. -/
theorem toNat_append_eq {m n : Nat} (x : BitVec m) (y : BitVec n) : (x ++ y).toNat = x.toNat * 2 ^ n + y.toNat := by
  rw [BitVec.toNat_append, Nat.shiftLeft_eq, Nat.mul_comm, ← Nat.two_pow_add_eq_or_of_lt y.isLt]

/-! ## Lanes (R53) -/

theorem toNat_ofLanes (b0 b1 b2 b3 : Byte) :
    (ofLanes b0 b1 b2 b3).toNat = b3.toNat * 2 ^ 24 + b2.toNat * 2 ^ 16 + b1.toNat * 2 ^ 8 + b0.toNat := by
  have h : (ofLanes b0 b1 b2 b3).toNat = (b3 ++ b2 ++ b1 ++ b0).toNat := rfl
  rw [h]
  simp only [toNat_append_eq]
  ring

/-- A lane of four assembled bytes is the byte. -/
theorem extract_ofLanes (b0 b1 b2 b3 : Byte) {i : Nat} (h : i < 4) :
    (ofLanes b0 b1 b2 b3).extractLsb' (8 * i) 8 = [b0, b1, b2, b3][i] := by
  have := b0.isLt
  have := b1.isLt
  have := b2.isLt
  have := b3.isLt
  have hi : i = 0 ∨ i = 1 ∨ i = 2 ∨ i = 3 := by omega
  apply BitVec.eq_of_toNat_eq
  rw [BitVec.extractLsb'_toNat, toNat_ofLanes, Nat.shiftRight_eq_div_pow]
  rcases hi with rfl | rfl | rfl | rfl <;> simp <;> omega

@[simp] theorem lanes_length (x : Bus32) : (lanes x).length = 4 := rfl

theorem lanes_getElem (x : Bus32) {i : Nat} (h : i < 4) : (lanes x)[i]'(by simpa using h) = lane x i := by
  have hi : i = 0 ∨ i = 1 ∨ i = 2 ∨ i = 3 := by omega
  rcases hi with rfl | rfl | rfl | rfl <;> rfl

/-! ## Big-endian bytes (R10, R52) -/

@[simp] theorem beBytes_length (n x : Nat) : (beBytes n x).length = n := by
  induction n with
  | zero => rfl
  | succ n ih => simp [beBytes, ih]

theorem beBytes_getElem (n x : Nat) {i : Nat} (h : i < n) :
    (beBytes n x)[i]'(by simpa using h) = BitVec.ofNat 8 (x / 256 ^ (n - 1 - i)) := by
  induction n generalizing i with
  | zero => omega
  | succ n ih =>
    cases i with
    | zero => simp [beBytes]
    | succ i =>
      simp only [beBytes, List.getElem_cons_succ]
      rw [ih (by omega)]
      congr 3
      omega

/-! ## The padded message (R144, R145) -/

/-- `P(n)` is the least multiple of `BB` that is at least `n + 1 + LB` (R144). -/
theorem paddedLen_spec (v : Variant) (n : Nat) :
    paddedLen v n % blockBytes v = 0 ∧ n + 1 + lenBytes v ≤ paddedLen v n ∧ paddedLen v n < n + 1 + lenBytes v + blockBytes v := by
  cases v <;> simp only [paddedLen, blockBytes, blockBits, lenBytes, lenBits] <;> omega

theorem paddedBytes_length (v : Variant) (m : List Byte) : (paddedBytes v m).length = paddedLen v m.length := by
  have := (paddedLen_spec v m.length).2.1
  simp only [paddedBytes, List.length_append, List.length_cons, List.length_replicate, beBytes_length]
  omega

@[simp] theorem Engine.message_length {v : Variant} (e : Engine v) (n : Nat) : (e.message n).length = n := by
  simp [Engine.message]

theorem Engine.message_getElem {v : Variant} (e : Engine v) {n i : Nat} (h : i < n) :
    (e.message n)[i]'(by simpa using h) = e.msgByte i := by
  simp [Engine.message]

/-! ## ByteAt, region by region (44_host_interface.md) -/

section
variable {v : Variant} (p : Params) (e : Engine v) {o : Nat}

theorem Engine.byteAt_hexwin (h : 0x100 ≤ o) (h' : o < 0x180) : some (e.byteAt p o) = e.hex[o - 0x100]? := by
  have hr : region p o = .hexwin := by
    unfold region
    rw [if_neg (by omega), if_pos h']
  rw [Engine.byteAt, hr]
  simp [show o - 256 < 128 by omega]

theorem Engine.byteAt_reserved (h : 0x180 ≤ o) (h' : o < 0x1000) : e.byteAt p o = 0x00#8 := by
  have hr : region p o = .reserved := by
    unfold region
    rw [if_neg (by omega), if_neg (by omega), if_pos h']
  rw [Engine.byteAt, hr]

theorem Engine.byteAt_msgwin (h : 0x1000 ≤ o) (h' : o < 0x1000 + msgCap p) : e.byteAt p o = e.msgByte (o - 0x1000) := by
  rw [Engine.byteAt, (region_msgwin_iff p o).mpr ⟨h, h'⟩]

theorem Engine.byteAt_unmapped (h : 0x1000 + msgCap p ≤ o) : e.byteAt p o = 0x00#8 := by
  have hr : region p o = .unmapped := by
    unfold region
    rw [if_neg (by omega), if_neg (by omega), if_neg (by omega), if_neg (by omega)]
  rw [Engine.byteAt, hr]

/-! ## Bytes of the buffers after a write -/

theorem Engine.msgByte_storeMsg_inside (off : Nat) (bs : List Byte) {i : Nat} (h : off - 0x1000 ≤ i)
    (h' : i < off - 0x1000 + bs.length) : (e.storeMsg off bs).msgByte i = bs[i - (off - 0x1000)]'(by omega) := by
  simp [Engine.msgByte, Memory.read?_writeRange_inside _ h h']

theorem Engine.msgByte_storeMsg_outside (off : Nat) (bs : List Byte) {i : Nat}
    (h : i < off - 0x1000 ∨ off - 0x1000 + bs.length ≤ i) : (e.storeMsg off bs).msgByte i = e.msgByte i := by
  simp [Engine.msgByte, Memory.read?_writeRange_outside _ h]

/-- Below PADLEN, PADBUF holds the padded message after PAD. -/
theorem Engine.padByte_pad_inside {i : Nat} (h : i < paddedLen v e.msgLen.toNat) :
    e.pad.padByte i = (paddedBytes v (e.message e.msgLen.toNat))[i]'(by simpa [paddedBytes_length] using h) := by
  have h' : i < 0 + (paddedBytes v (e.message e.msgLen.toNat)).length := by simpa [paddedBytes_length] using h
  simp [Engine.padByte, Memory.read?_writeRange_inside _ (Nat.zero_le i) h']

theorem Engine.padByte_pad_outside {i : Nat} (h : paddedLen v e.msgLen.toNat ≤ i) : e.pad.padByte i = e.padByte i := by
  have h' : i < 0 ∨ 0 + (paddedBytes v (e.message e.msgLen.toNat)).length ≤ i := by
    simpa [paddedBytes_length] using h
  simp [Engine.padByte, Memory.read?_writeRange_outside _ h']

end

end Sys2Proof.Machine
end

