-- ==== Sys2Proof/Laws/Compressor.lean ====
section
/-! SUPPORT. The schedule word by word (R165), the digest string (R191 to R194) and the block counters of a run (R147, R149). -/

namespace Sys2Proof.Machine

variable {v : Variant}

/-! ## The schedule (R165) -/

/-- Words already in the list stay, `n` places further on. -/
theorem schedExtend_old (n : Nat) (acc : List (Word v)) (i : Nat) : (schedExtend v n acc)[n + i]? = acc[i]? := by
  induction n generalizing acc i with
  | zero => simp [schedExtend]
  | succ n ih =>
    rw [schedExtend, show n + 1 + i = n + (i + 1) by omega, ih]
    simp

/-- A new word is `schedNext` of the words after it in the list. -/
theorem schedExtend_new (n : Nat) (acc : List (Word v)) {j : Nat} (hj : j < n) :
    (schedExtend v n acc)[j]? = some (schedNext v ((schedExtend v n acc).drop (j + 1))) := by
  induction n generalizing acc with
  | zero => omega
  | succ n ih =>
    rw [schedExtend]
    by_cases h : j < n
    · exact ih _ h
    · obtain rfl : j = n := by omega
      have hd : (schedExtend v j (schedNext v acc :: acc)).drop (j + 1) = acc := by
        apply List.ext_getElem?
        intro i
        rw [List.getElem?_drop, show j + 1 + i = j + (i + 1) by omega, schedExtend_old]
        simp
      rw [hd]
      exact schedExtend_old j _ 0

theorem schedule_getElem? (block : Fin 16 → Word v) {t : Nat} (h : t < v.rounds) :
    (schedule v block)[t]? = (schedExtend v (v.rounds - 16) (List.ofFn block).reverse)[v.rounds - 1 - t]? := by
  have hR : 16 ≤ v.rounds := by cases v <;> decide
  have hl : (schedExtend v (v.rounds - 16) (List.ofFn block).reverse).length = v.rounds := by
    simp [schedExtend_length]
    omega
  simp only [schedule, Vector.getElem?_mk, List.getElem?_toArray]
  rw [List.getElem?_reverse (by omega), hl]

/-- The first 16 words are the block's. -/
theorem schedule_first (block : Fin 16 → Word v) {t : Nat} (h : t < 16) : (schedule v block)[t]? = some (block ⟨t, h⟩) := by
  have hR : 16 ≤ v.rounds := by cases v <;> decide
  rw [schedule_getElem? block (by omega), show v.rounds - 1 - t = v.rounds - 16 + (15 - t) by omega, schedExtend_old,
    List.getElem?_reverse (by simp; omega), List.length_ofFn, show 16 - 1 - (15 - t) = t by omega,
    List.getElem?_eq_getElem (by simpa using h), List.getElem_ofFn]

/-- Every later word is the sum of four earlier ones. -/
theorem schedule_later (block : Fin 16 → Word v) {t : Nat} (h16 : 16 ≤ t) (h : t < v.rounds) :
    (schedule v block)[t]? = some (((schedule v block)[t - 16]?.getD 0) + ssig0 v ((schedule v block)[t - 15]?.getD 0) +
      ((schedule v block)[t - 7]?.getD 0) + ssig1 v ((schedule v block)[t - 2]?.getD 0)) := by
  rw [schedule_getElem? block h, schedExtend_new _ _ (by omega), schedNext, schedule_getElem? block (by omega : t - 16 < _),
    schedule_getElem? block (by omega : t - 15 < _), schedule_getElem? block (by omega : t - 7 < _),
    schedule_getElem? block (by omega : t - 2 < _)]
  simp only [List.getD_eq_getElem?_getD, List.getElem?_drop]
  rw [show v.rounds - 1 - t + 1 + 15 = v.rounds - 1 - (t - 16) by omega, show v.rounds - 1 - t + 1 + 14 = v.rounds - 1 - (t - 15) by omega,
    show v.rounds - 1 - t + 1 + 6 = v.rounds - 1 - (t - 7) by omega, show v.rounds - 1 - t + 1 + 1 = v.rounds - 1 - (t - 2) by omega]

/-! ## The digest string (R191 to R194) -/

@[simp] theorem hexWord_length (x : BitVec w) : (hexWord x).length = w / 4 := by simp [hexWord]

theorem digestString_length (v : Variant) (h : Words8 v) : (digestString v h).length = hexLen v := by
  have hn : digestWords v ≤ 8 := by cases v <;> decide
  simp only [digestString, List.length_flatMap, hexWord_length, List.map_const', List.sum_replicate, List.length_take,
    Vector.length_toList, smul_eq_mul, Nat.min_eq_left hn]
  cases v <;> rfl

/-- The digit of a word, as a number (R191). -/
theorem hexDigit_toNat (x : Word v) {d : Nat} (h : d < v.w / 4) : (hexDigit x d).toNat = x.toNat / 16 ^ (v.w / 4 - 1 - d) % 16 := by
  have hw : v.w - 4 - 4 * d = 4 * (v.w / 4 - 1 - d) := by cases v <;> simp only [Variant.w] at h ⊢ <;> omega
  rw [hexDigit, BitVec.extractLsb'_toNat, Nat.shiftRight_eq_div_pow, hw, Nat.pow_mul]

/-- The character of a digit, as a number (R193). -/
theorem ascii_toNat (d : BitVec 4) : (ascii d).toNat = if d.toNat ≤ 9 then 0x30 + d.toNat else 0x61 + (d.toNat - 10) := by
  revert d
  decide

/-- Character `d` of word `k` stands at `k * (w/4) + d` (R192). -/
theorem digestString_getElem? (h : Words8 v) {k d : Nat} (hk : k < digestWords v) (hd : d < v.w / 4) :
    (digestString v h)[k * (v.w / 4) + d]? = (h[k]?).map fun x => ascii (hexDigit x d) := by
  have key : ∀ (l : List (Word v)) (k : Nat), k < l.length →
      (l.flatMap hexWord)[k * (v.w / 4) + d]? = (l[k]?).map fun x => ascii (hexDigit x d) := by
    intro l
    induction l with
    | nil => intro k hk; simp at hk
    | cons x l ih =>
      intro k hk
      cases k with
      | zero =>
        simp only [List.flatMap_cons, Nat.zero_mul, Nat.zero_add]
        rw [List.getElem?_append_left (by simpa using hd)]
        simp [hexWord, hd]
      | succ k =>
        simp only [List.flatMap_cons]
        rw [List.getElem?_append_right (by simp; nlinarith)]
        simp only [hexWord_length, List.getElem?_cons_succ]
        rw [show (k + 1) * (v.w / 4) + d - v.w / 4 = k * (v.w / 4) + d by
          rw [Nat.succ_mul]; omega]
        exact ih k (by simpa using hk)
  have hn : digestWords v ≤ 8 := by cases v <;> decide
  rw [digestString, key _ k (by simp; omega), List.getElem?_take, if_pos hk]
  simp

/-! ## Counters (R147, R149) -/

/-- For a length of a run, the padded length fits PADLEN and PADBUF, and is a whole number of blocks, at least one and at most 2^18 + 1. -/
theorem paddedLen_bounds (v : Variant) {p : Params} {n : Nat} (h : n ≤ msgCap p) :
    paddedLen v n < 2 ^ 32 ∧ paddedLen v n ≤ padCap p v ∧ 1 ≤ paddedLen v n / blockBytes v ∧
      paddedLen v n / blockBytes v ≤ 2 ^ 18 + 1 ∧ paddedLen v n / blockBytes v * blockBytes v = paddedLen v n := by
  have hc := msgCap_le p
  unfold padCap
  generalize msgCap p = c at *
  cases v <;> simp only [paddedLen, blockBytes, blockBits, lenBytes, lenBits] <;> omega

end Sys2Proof.Machine
end

