-- ==== Sys2Proof/Laws/Decode.lean ====
section
/-! SUPPORT. The two fields of a command word (R81): how they make the word up, and how they are read from one. -/

namespace Sys2Proof

theorem toNat_rsv_append_op (rsv : BitVec 28) (op : BitVec 4) : (rsv ++ op).toNat = rsv.toNat * 16 + op.toNat := by
  have := op.isLt
  rw [BitVec.toNat_append, Nat.shiftLeft_eq, Nat.mul_comm, ← Nat.two_pow_add_eq_or_of_lt this, Nat.mul_comm]

theorem toNat_commandRsv (word : Bus32) : (commandRsv word).toNat = word.toNat / 16 := by
  have := word.isLt
  simp [commandRsv, BitVec.extractLsb'_toNat, Nat.shiftRight_eq_div_pow]
  omega

theorem toNat_commandOp (word : Bus32) : (commandOp word).toNat = word.toNat % 16 := by
  simp [commandOp, BitVec.extractLsb'_toNat]

@[simp] theorem commandRsv_append (rsv : BitVec 28) (op : BitVec 4) : commandRsv (rsv ++ op) = rsv := by
  apply BitVec.eq_of_toNat_eq
  rw [toNat_commandRsv, toNat_rsv_append_op]
  have := op.isLt
  omega

@[simp] theorem commandOp_append (rsv : BitVec 28) (op : BitVec 4) : commandOp (rsv ++ op) = op := by
  apply BitVec.eq_of_toNat_eq
  rw [toNat_commandOp, toNat_rsv_append_op]
  have := op.isLt
  omega

/-- A command word is its two fields (R81). -/
theorem commandWord_eq (word : Bus32) : word = commandRsv word ++ commandOp word := by
  apply BitVec.eq_of_toNat_eq
  rw [toNat_rsv_append_op, toNat_commandRsv, toNat_commandOp]
  omega

/-- A word with `RSV = 0` and `OP` in 4 to 7 (R83). -/
theorem append_low2 (low : BitVec 2) : (1#30 ++ low : Bus32) = 0#28 ++ (1#2 ++ low : BitVec 4) := by
  revert low; decide

/-- A word with `RSV = 0` and `OP` in 8 to 15 (R83). -/
theorem append_low3 (low : BitVec 3) : (1#29 ++ low : Bus32) = 0#28 ++ (1#1 ++ low : BitVec 4) := by
  revert low; decide

end Sys2Proof
end

