-- ==== Sys2Proof/Laws/Exec.lean ====
section
/-! SUPPORT. Every instruction and every step in one form: what happens to the instruction's own instance, and what its read answers. -/

namespace Sys2Proof.Machine

/-! ## Command words, case by case -/

/-- What a command word does, by its value: CLEAR is 2, CLRERR is 3, only 1 begins a run, and no other word does more than record an error
(R217). -/
theorem Engine.execCmd_word {v : Variant} (e : Engine v) (p : Params) (word : Bus32) :
    (word = 2#32 ∧ e.execCmd p word = e.clear) ∨ (word = 3#32 ∧ e.execCmd p word = e.clearError) ∨
    (word ≠ 2#32 ∧ word ≠ 3#32 ∧
      (e.execCmd p word = e ∨ (∃ c, e.execCmd p word = e.raise c) ∨
        (word = 1#32 ∧ e.busy = false ∧ e.msgLen.toNat ≤ msgCap p ∧ e.execCmd p word = { e with phase := 1#4 }))) := by
  unfold Engine.execCmd
  split_ifs with h1 h2 h3 h4
  · refine .inr (.inr ⟨?_, ?_, .inr (.inl ⟨_, rfl⟩)⟩) <;> (rintro rfl; revert h1; decide)
  · refine .inr (.inr ⟨?_, ?_, .inl rfl⟩) <;> (rintro rfl; revert h2; decide)
  · refine .inr (.inr ⟨by rintro rfl; revert h3; decide, by rintro rfl; revert h3; decide, ?_⟩)
    rcases e.start_cases p with h | h | h
    · exact .inr (.inl ⟨_, h.2⟩)
    · exact .inr (.inl ⟨_, h.2.2⟩)
    · simp only [ne_eq, not_or, not_not] at h1
      exact .inr (.inr ⟨by rw [commandWord_eq word, h3, h1.1]; rfl, h⟩)
  · simp only [ne_eq, not_or, not_not] at h1
    exact .inl ⟨by rw [commandWord_eq word, h4, h1.1]; rfl, rfl⟩
  · simp only [ne_eq, not_or, not_not] at h1
    have h5 : commandOp word = 3#4 := by
      have := h1.2
      revert h2 h3 h4 this
      generalize commandOp word = x
      revert x
      decide
    exact .inr (.inl ⟨by rw [commandWord_eq word, h5, h1.1]; rfl, rfl⟩)

/-! ## Instructions -/

/-- What an instruction does to its own instance. -/
def effect (p : Params) : (i : Instr) → Engine i.variant → Engine i.variant
  | .nop _, e => e
  | .start _, e => e.start p
  | .clear _, e => e.clear
  | .clrErr _, e => e.clearError
  | .cmdRsvOp4to7 _ _, e => e.raise .badCmd
  | .cmdRsvOp8to15 _ _, e => e.raise .badCmd
  | .cmdRsvHigh _ _ _, e => e.raise .badCmd
  | .rd8 _ off, e => (e.rd8 p off).1
  | .rd32 _ off, e => (e.rd32 p off).1
  | .wr8 _ off w, e => e.wr8 p off w
  | .wr32 _ off w, e => e.wr32 p off w
  | .rd16 _ _, e => e.raise .badWidth
  | .rdx _ _, e => e.raise .badWidth
  | .wr16 _ _ _, e => e.raise .badWidth
  | .wrx _ _ _, e => e.raise .badWidth
  | .idle _, e => e
  | .init _, e => e.init
  | .pad _, e => e.pad
  | .segment _, e => e.segment
  | .expand _, e => e.expand
  | .round _, e => e.round
  | .update _, e => e.update
  | .assemble _, e => e.assemble
  | .done _, e => e
  | .phaseRsv9 _, e => e
  | .phaseRsv10 _, e => e
  | .phaseRsv11 _, e => e
  | .phaseRsv12 _, e => e
  | .phaseRsv13 _, e => e
  | .phaseRsv14 _, e => e
  | .phaseRsv15 _, e => e

/-- What a read answers; none for an instruction that is no read. -/
def answer (p : Params) : (i : Instr) → Engine i.variant → Option Bus32
  | .rd8 _ off, e => some (e.rd8 p off).2
  | .rd32 _ off, e => some (e.rd32 p off).2
  | .rd16 _ _, _ => some 0#32
  | .rdx _ _, _ => some 0#32
  | _, _ => none

/-- The state with a read's answer recorded, if there is one. -/
def State.recordAnswer (s : State) (v : Variant) : Option Bus32 → State
  | none => s
  | some x => s.setRdata v x

theorem exec_eq (i : Instr) (s : State) :
    exec i s = .next ((s.setEngine i.variant (effect s.par i (s.engine i.variant))).recordAnswer i.variant
      (answer s.par i (s.engine i.variant))) := by
  cases i <;> first
    | rfl
    | simp [exec, effect, answer, State.recordAnswer, Instr.variant, execNop, execIdle, execDone, execPhaseRsv9, execPhaseRsv10,
        execPhaseRsv11, execPhaseRsv12, execPhaseRsv13, execPhaseRsv14, execPhaseRsv15]

section
variable (s : State) (v : Variant) (x : Option Bus32)

@[simp] theorem State.engine_recordAnswer (u : Variant) : (s.recordAnswer v x).engine u = s.engine u := by
  cases x <;> simp [State.recordAnswer]

@[simp] theorem State.par_recordAnswer : (s.recordAnswer v x).par = s.par := by cases x <;> simp [State.recordAnswer]

@[simp] theorem State.inbox_recordAnswer : (s.recordAnswer v x).inbox = s.inbox := by cases x <;> simp [State.recordAnswer]

@[simp] theorem State.picks_recordAnswer : (s.recordAnswer v x).picks = s.picks := by cases x <;> simp [State.recordAnswer]

theorem State.rdata_recordAnswer_ne {u : Variant} (h : u ≠ v) : (s.recordAnswer v x).rdata u = s.rdata u := by
  cases x <;> simp [State.recordAnswer, State.rdata_setRdata_ne _ h]

end

/-- Everything an instruction does: a next state, its own instance changed by `effect`, and the other instance, the parameters and the
schedule as before. -/
theorem exec_next (i : Instr) (s : State) :
    ∃ t, exec i s = .next t ∧ t.engine i.variant = effect s.par i (s.engine i.variant) ∧
      (∀ u, u ≠ i.variant → t.engine u = s.engine u ∧ t.rdata u = s.rdata u) ∧ t.par = s.par ∧ t.inbox = s.inbox ∧ t.picks = s.picks := by
  refine ⟨_, exec_eq i s, by simp, fun u hu => ⟨?_, ?_⟩, by simp, by simp, by simp⟩
  · simp [State.engine_setEngine_ne _ hu]
  · rw [State.rdata_recordAnswer_ne _ _ _ hu, State.rdata_setEngine]

/-- The decoder names the instance it decodes for. -/
@[simp] theorem variant_decode (v : Variant) (c : Code) : (decode v c).variant = v := by
  cases c with
  | command word =>
    simp only [decode, decodeCommand]
    split_ifs <;> rfl
  | bus access => cases access <;> simp only [decode, decodeBus] <;> split_ifs <;> rfl
  | phase code => simp only [decode, decodePhase]; split <;> rfl

/-! ## Steps -/

theorem step_engine {s : State} {v : Variant} {rest : List Stimulus} (h : s.inbox = .engine v :: rest) :
    step s = exec (decodePhase v (s.engine v).phase) { s with inbox := rest } := by simp [step, nextEvent, h, State.phaseCode, decode]

theorem step_bus {s : State} {v : Variant} {access : BusAccess} {rest : List Stimulus} (h : s.inbox = .bus v access :: rest) :
    step s = exec (decode v access.code) { s with inbox := rest } := by simp [step, nextEvent, h]

theorem step_reset {s : State} {v : Variant} {rest : List Stimulus} (h : s.inbox = .reset v :: rest) :
    step s = .next ({ s with inbox := rest }.setEngine v (s.engine v).resetEvent) := by
  simp only [step, nextEvent, h, State.modify]
  cases v <;> rfl

theorem step_nil {s : State} (h : s.inbox = []) :
    step s = exec (decodePhase (idleEngine s) (s.engine (idleEngine s)).phase) { s with picks := s.picks + 1 } := by
  simp [step, nextEvent, h, State.phaseCode, decode]

/-- A run of one step more. -/
theorem run_succ {s t : State} (n : Nat) (h : step s = .next t) : core.run (n + 1) s = core.run n t := by
  have h' : core.step s = .next t := h
  simp only [Host.Core.run, h']

end Sys2Proof.Machine
end

