-- ==== Sys2Proof/Laws/PerInstr.lean ====
section
/-! SUPPORT. Facts proved instruction by instruction: the code of every well-formed instruction matches its own row of
spec/opcode_table.json. -/

namespace Sys2Proof.Laws.MatchesTableRow

/-- The table's columns `mask` and `match` for the row of an instruction. -/
def row : Instr → Nat × Nat
  | .nop _ => (0xffffffff, 0x0)
  | .start _ => (0xffffffff, 0x1)
  | .clear _ => (0xffffffff, 0x2)
  | .clrErr _ => (0xffffffff, 0x3)
  | .cmdRsvOp4to7 _ _ => (0xfffffffc, 0x4)
  | .cmdRsvOp8to15 _ _ => (0xfffffff8, 0x8)
  | .cmdRsvHigh _ _ _ => (0x0, 0x0)
  | .rd8 _ _ => (0x7, 0x0)
  | .rd32 _ _ => (0x7, 0x2)
  | .wr8 _ _ _ => (0x7, 0x4)
  | .wr32 _ _ _ => (0x7, 0x6)
  | .rd16 _ _ => (0x7, 0x1)
  | .rdx _ _ => (0x7, 0x3)
  | .wr16 _ _ _ => (0x7, 0x5)
  | .wrx _ _ _ => (0x7, 0x7)
  | .idle _ => (0xf, 0x0)
  | .init _ => (0xf, 0x1)
  | .pad _ => (0xf, 0x2)
  | .segment _ => (0xf, 0x3)
  | .expand _ => (0xf, 0x4)
  | .round _ => (0xf, 0x5)
  | .update _ => (0xf, 0x6)
  | .assemble _ => (0xf, 0x7)
  | .done _ => (0xf, 0x8)
  | .phaseRsv9 _ => (0xf, 0x9)
  | .phaseRsv10 _ => (0xf, 0xa)
  | .phaseRsv11 _ => (0xf, 0xb)
  | .phaseRsv12 _ => (0xf, 0xc)
  | .phaseRsv13 _ => (0xf, 0xd)
  | .phaseRsv14 _ => (0xf, 0xe)
  | .phaseRsv15 _ => (0xf, 0xf)

/-- The bits of a code that the table numbers: a command word, a bus kind or a phase code. -/
def bits : Code → Nat
  | .command word => word.toNat
  | .bus access => access.kind.toNat
  | .phase code => code.toNat

/-- The row CMD_RSV_HIGH has no fixed bits but the condition `RSV != 0`. -/
def condition : Instr → Bool
  | .cmdRsvHigh v rsv op => bits (encode (.cmdRsvHigh v rsv op)) / 16 != 0
  | _ => true

/-- The code of a well-formed instruction has the fixed bits of its row, and meets the row's condition. -/
def Statement (i : Instr) : Prop :=
  i.wellFormed = true → bits (encode i) &&& (row i).1 = (row i).2 ∧ condition i = true

/-- Fixed high bits above free low bits: the low bits do not reach the mask. -/
theorem append_and_high {m n : Nat} (x : BitVec m) (y : BitVec n) (mask : BitVec (m + n))
    (hm : mask = BitVec.allOnes m ++ 0#n) : (x ++ y) &&& mask = x ++ 0#n := by
  subst hm
  apply BitVec.eq_of_getLsbD_eq
  intro i hi
  by_cases h : i < n <;> simp [BitVec.getLsbD_append, h]

theorem nop (v : Variant) : Statement (.nop v) := fun _ => ⟨by simp [bits, encode, row], rfl⟩

theorem start (v : Variant) : Statement (.start v) := fun _ => ⟨by simp [bits, encode, row], rfl⟩

theorem clear (v : Variant) : Statement (.clear v) := fun _ => ⟨by simp [bits, encode, row], rfl⟩

theorem clrErr (v : Variant) : Statement (.clrErr v) := fun _ => ⟨by simp [bits, encode, row], rfl⟩

theorem cmdRsvOp4to7 (v : Variant) (low : BitVec 2) : Statement (.cmdRsvOp4to7 v low) := by
  intro _
  have h := congrArg BitVec.toNat (append_and_high 1#30 low 0xFFFFFFFC#32 (by decide))
  exact ⟨by simpa [bits, encode, row, BitVec.toNat_and] using h, rfl⟩

theorem cmdRsvOp8to15 (v : Variant) (low : BitVec 3) : Statement (.cmdRsvOp8to15 v low) := by
  intro _
  have h := congrArg BitVec.toNat (append_and_high 1#29 low 0xFFFFFFF8#32 (by decide))
  exact ⟨by simpa [bits, encode, row, BitVec.toNat_and] using h, rfl⟩

theorem cmdRsvHigh (v : Variant) (rsv : BitVec 28) (op : BitVec 4) : Statement (.cmdRsvHigh v rsv op) := by
  intro h
  have hr : rsv ≠ 0#28 := by simpa [Instr.wellFormed] using h
  have hn : rsv.toNat ≠ 0 := fun h0 => hr (BitVec.eq_of_toNat_eq (by simpa using h0))
  refine ⟨by simp [row], ?_⟩
  have : (rsv ++ op).toNat / 16 = rsv.toNat := by
    have := op.isLt
    rw [BitVec.toNat_append, Nat.shiftLeft_eq, Nat.mul_comm, ← Nat.two_pow_add_eq_or_of_lt this]
    omega
  simpa [condition, bits, encode, this] using hn

theorem rd8 (v : Variant) (off : Bus32) : Statement (.rd8 v off) := fun _ => ⟨by simp [bits, encode, row, BusAccess.kind], rfl⟩

theorem rd32 (v : Variant) (off : Bus32) : Statement (.rd32 v off) := fun _ => ⟨by simp [bits, encode, row, BusAccess.kind], rfl⟩

theorem wr8 (v : Variant) (off : Bus32) (wdata : Bus32) : Statement (.wr8 v off wdata) := fun _ => ⟨by simp [bits, encode, row, BusAccess.kind], rfl⟩

theorem wr32 (v : Variant) (off : Bus32) (wdata : Bus32) : Statement (.wr32 v off wdata) := fun _ => ⟨by simp [bits, encode, row, BusAccess.kind], rfl⟩

theorem rd16 (v : Variant) (off : Bus32) : Statement (.rd16 v off) := fun _ => ⟨by simp [bits, encode, row, BusAccess.kind], rfl⟩

theorem rdx (v : Variant) (off : Bus32) : Statement (.rdx v off) := fun _ => ⟨by simp [bits, encode, row, BusAccess.kind], rfl⟩

theorem wr16 (v : Variant) (off : Bus32) (wdata : Bus32) : Statement (.wr16 v off wdata) := fun _ => ⟨by simp [bits, encode, row, BusAccess.kind], rfl⟩

theorem wrx (v : Variant) (off : Bus32) (wdata : Bus32) : Statement (.wrx v off wdata) := fun _ => ⟨by simp [bits, encode, row, BusAccess.kind], rfl⟩

theorem idle (v : Variant) : Statement (.idle v) := fun _ => ⟨by simp [bits, encode, row], rfl⟩

theorem init (v : Variant) : Statement (.init v) := fun _ => ⟨by simp [bits, encode, row], rfl⟩

theorem pad (v : Variant) : Statement (.pad v) := fun _ => ⟨by simp [bits, encode, row], rfl⟩

theorem segment (v : Variant) : Statement (.segment v) := fun _ => ⟨by simp [bits, encode, row], rfl⟩

theorem expand (v : Variant) : Statement (.expand v) := fun _ => ⟨by simp [bits, encode, row], rfl⟩

theorem round (v : Variant) : Statement (.round v) := fun _ => ⟨by simp [bits, encode, row], rfl⟩

theorem update (v : Variant) : Statement (.update v) := fun _ => ⟨by simp [bits, encode, row], rfl⟩

theorem assemble (v : Variant) : Statement (.assemble v) := fun _ => ⟨by simp [bits, encode, row], rfl⟩

theorem done (v : Variant) : Statement (.done v) := fun _ => ⟨by simp [bits, encode, row], rfl⟩

theorem phaseRsv9 (v : Variant) : Statement (.phaseRsv9 v) := fun _ => ⟨by simp [bits, encode, row], rfl⟩

theorem phaseRsv10 (v : Variant) : Statement (.phaseRsv10 v) := fun _ => ⟨by simp [bits, encode, row], rfl⟩

theorem phaseRsv11 (v : Variant) : Statement (.phaseRsv11 v) := fun _ => ⟨by simp [bits, encode, row], rfl⟩

theorem phaseRsv12 (v : Variant) : Statement (.phaseRsv12 v) := fun _ => ⟨by simp [bits, encode, row], rfl⟩

theorem phaseRsv13 (v : Variant) : Statement (.phaseRsv13 v) := fun _ => ⟨by simp [bits, encode, row], rfl⟩

theorem phaseRsv14 (v : Variant) : Statement (.phaseRsv14 v) := fun _ => ⟨by simp [bits, encode, row], rfl⟩

theorem phaseRsv15 (v : Variant) : Statement (.phaseRsv15 v) := fun _ => ⟨by simp [bits, encode, row], rfl⟩

end Sys2Proof.Laws.MatchesTableRow
end

