-- ==== Sys2Proof/Tests/Slice0.lean ====
section
/-! SUPPORT. Tests of the model: words written out from the spec's encodings, single steps against the vectors of 95_test_vectors.md, and for
every statement with hypotheses a state and operands that meet them. -/

namespace Sys2Proof.Tests

open Sys2Proof.Machine

/-! ## Small states -/

/-- The state an outcome goes on with (the old one, if it stops). -/
def after (i : Instr) (s : State) : State :=
  match exec i s with
  | .next t => t
  | .fault _ => s
  | .refused _ => s

/-- Reset, with the Engine-32 instance changed. -/
def with32 (f : Engine .e32 → Engine .e32) : State := { State.reset with e32 := f State.reset.e32 }

/-- Reset, with the Engine-64 instance changed. -/
def with64 (f : Engine .e64 → Engine .e64) : State := { State.reset with e64 := f State.reset.e64 }

/-- Reset, with a schedule. -/
def withInbox (xs : List Stimulus) : State := { State.reset with inbox := xs }

/-- Engine-32 in INIT, straight after START. -/
def busy32 : State := with32 fun e => { e with phase := 1#4 }

/-- The message "abc" in the buffer. -/
def abc : Memory := [(0, 0x61#8), (1, 0x62#8), (2, 0x63#8)]

/-! ## WellFormed: the ill-formed terms are refused -/

/-- R83: with RSV = 0 the word belongs to another row. -/
theorem test_wellFormed_refuses_zero_rsv :
    (Instr.cmdRsvHigh .e32 0#28 0x0#4).wellFormed = false ∧ (Instr.cmdRsvHigh .e64 0#28 0xF#4).wellFormed = false := by decide

theorem test_wellFormed_admits_nonzero_rsv :
    (Instr.cmdRsvHigh .e32 1#28 0x0#4).wellFormed = true ∧ (Instr.cmdRsvHigh .e64 0xFFFFFFF#28 0xF#4).wellFormed = true := by decide

/-! ## Decode: one word of every row, from the tables of R82 to R87 -/

theorem test_decode_command_words :
    decode .e32 (.command 0b00000000000000000000000000000000#32) = .nop .e32 ∧
    decode .e32 (.command 0b00000000000000000000000000000001#32) = .start .e32 ∧
    decode .e32 (.command 0b00000000000000000000000000000010#32) = .clear .e32 ∧
    decode .e32 (.command 0b00000000000000000000000000000011#32) = .clrErr .e32 := by decide

/-- The four words with OP 4 to 7, and both ends of OP 8 to 15. -/
theorem test_decode_reserved_operations :
    decode .e32 (.command 0b0100#32) = .cmdRsvOp4to7 .e32 0b00#2 ∧ decode .e32 (.command 0b0101#32) = .cmdRsvOp4to7 .e32 0b01#2 ∧
    decode .e32 (.command 0b0110#32) = .cmdRsvOp4to7 .e32 0b10#2 ∧ decode .e64 (.command 0b0111#32) = .cmdRsvOp4to7 .e64 0b11#2 ∧
    decode .e32 (.command 0b1000#32) = .cmdRsvOp8to15 .e32 0b000#3 ∧ decode .e64 (.command 0b1111#32) = .cmdRsvOp8to15 .e64 0b111#3 := by
  decide

/-- The lowest and the highest RSV bit; OP keeps its four bits. -/
theorem test_decode_reserved_high :
    decode .e32 (.command 0x00000010#32) = .cmdRsvHigh .e32 0x0000001#28 0x0#4 ∧
    decode .e32 (.command 0x80000001#32) = .cmdRsvHigh .e32 0x8000000#28 0x1#4 ∧
    decode .e64 (.command 0x0000002F#32) = .cmdRsvHigh .e64 0x0000002#28 0xF#4 := by decide

/-- KIND = DIR, SIZE: 000, 010, 100 and 110 are RD8, RD32, WR8 and WR32; the descriptors are those of program P1. -/
theorem test_decode_bus_kinds :
    decode .e32 (.bus (.ofKind 0b000#3 0x00000100#32 0#32)) = .rd8 .e32 0x100#32 ∧
    decode .e32 (.bus (.ofKind 0b010#3 0x00000010#32 0#32)) = .rd32 .e32 0x010#32 ∧
    decode .e32 (.bus (.ofKind 0b100#3 0x00001001#32 0x62#32)) = .wr8 .e32 0x1001#32 0x62#32 ∧
    decode .e32 (.bus (.ofKind 0b110#3 0x0000000C#32 3#32)) = .wr32 .e32 0x00C#32 3#32 := by decide

theorem test_decode_reserved_bus_kinds :
    decode .e32 (.bus (.ofKind 0b001#3 0x00000100#32 0#32)) = .rd16 .e32 0x100#32 ∧
    decode .e64 (.bus (.ofKind 0b011#3 0x00000100#32 0#32)) = .rdx .e64 0x100#32 ∧
    decode .e32 (.bus (.ofKind 0b101#3 0x00001000#32 7#32)) = .wr16 .e32 0x1000#32 7#32 ∧
    decode .e64 (.bus (.ofKind 0b111#3 0x00001000#32 7#32)) = .wrx .e64 0x1000#32 7#32 := by decide

theorem test_decode_phases :
    decode .e32 (.phase 0b0000#4) = .idle .e32 ∧ decode .e32 (.phase 0b0001#4) = .init .e32 ∧ decode .e32 (.phase 0b0010#4) = .pad .e32 ∧
    decode .e32 (.phase 0b0011#4) = .segment .e32 ∧ decode .e32 (.phase 0b0100#4) = .expand .e32 ∧
    decode .e32 (.phase 0b0101#4) = .round .e32 ∧ decode .e32 (.phase 0b0110#4) = .update .e32 ∧
    decode .e32 (.phase 0b0111#4) = .assemble .e32 ∧ decode .e32 (.phase 0b1000#4) = .done .e32 := by decide

theorem test_decode_reserved_phases :
    decode .e64 (.phase 0x9#4) = .phaseRsv9 .e64 ∧ decode .e64 (.phase 0xA#4) = .phaseRsv10 .e64 ∧
    decode .e64 (.phase 0xB#4) = .phaseRsv11 .e64 ∧ decode .e64 (.phase 0xC#4) = .phaseRsv12 .e64 ∧
    decode .e64 (.phase 0xD#4) = .phaseRsv13 .e64 ∧ decode .e64 (.phase 0xE#4) = .phaseRsv14 .e64 ∧
    decode .e64 (.phase 0xF#4) = .phaseRsv15 .e64 := by decide

/-- R34, R217: the write of a command to CMD is the command; a write elsewhere, or of another size, is its descriptor. -/
theorem test_write_to_cmd_is_a_command :
    decode .e32 (BusAccess.code (.write 2#2 0x004#32 0x3#32)) = .clrErr .e32 ∧
    decode .e32 (BusAccess.code (.write 2#2 0x00C#32 0x3#32)) = .wr32 .e32 0x00C#32 3#32 ∧
    decode .e32 (BusAccess.code (.write 0#2 0x004#32 0x1#32)) = .wr8 .e32 0x004#32 1#32 := by decide

/-- The host's numbering: 32 bits, one byte, three bits, and nine bytes with the descriptor `110 0x0000000C 0x00000003` of P1. -/
theorem test_decodeTableWord :
    decodeTableWord 32 0x00000001 = some (.start .e32) ∧ decodeTableWord 8 0x5 = some (.round .e32) ∧
    decodeTableWord 3 0b100 = some (.wr8 .e32 0#32 0#32) ∧
    decodeTableWord 72 (0b110 + 0x0000000C * 2 ^ 3 + 0x00000003 * 2 ^ 35) = some (.wr32 .e32 0x00C#32 3#32) ∧
    decodeTableWord 8 0x10 = none := by decide

/-- A word placed by `withFetchWord` is what the next step runs. -/
theorem test_withFetchWord :
    (match step (State.reset.withFetchWord 32 0x00000001) with | .next t => t.e32.phase | _ => 0#4) = 1#4 ∧
    (match step (State.reset.withFetchWord 8 0x1) with | .next t => t.e32.phase | _ => 0#4) = 2#4 ∧
    (match step (State.reset.withFetchWord 72 (0b010 + 0x018 * 2 ^ 3)) with | .next t => t.rdata32 | _ => 0#32) = 0x1000#32 := by
  decide

/-! ## Commands (V-H12 to V-H15, V-E7 to V-E16) -/

/-- V-H13. -/
theorem test_nop : (after (.nop .e32) (after (.start .e32) State.reset)).e32.status = 0x011#32 := by decide

/-- V-H12: `MSG_LEN = MSG_CAP` is accepted. -/
theorem test_start : (after (.start .e32) (with32 fun e => { e with msgLen := 4096#32 })).e32.status = 0x011#32 := by decide

/-- V-E14, V-E10. -/
theorem test_start_refused :
    (after (.start .e32) (with32 fun e => { e with msgLen := 4097#32 })).e32.status = 0x404#32 ∧
    (after (.start .e32) busy32).e32.status = 0x215#32 := by decide

/-- V-H14; CLEAR keeps MSG_LEN (P5, line 13). -/
theorem test_clear :
    let s := with32 fun e => { e with phase := 5#4, msgLen := 3#32, rnd := 6#8, h := Vector.replicate 8 0#32, err := true, errCode := 3#4 }
    (after (.clear .e32) s).e32.status = 0#32 ∧ (after (.rd32 .e32 0x040#32) (after (.clear .e32) s)).rdata32 = 0xc1059ed8#32 ∧
      (after (.clear .e32) s).e32.msgLen = 3#32 ∧ (after (.clear .e32) s).e32.rnd = 0#8 := by decide

/-- V-H15: BUSY_CMD, then cleared; the run goes on. -/
theorem test_clrErr : (after (.clrErr .e32) (after (.start .e32) busy32)).e32.status = 0x011#32 := by decide

/-- V-E8. -/
theorem test_cmdRsvOp4to7 : (after (.cmdRsvOp4to7 .e32 0#2) State.reset).e32.status = 0x104#32 := by decide

/-- R222, while busy (V-E13). -/
theorem test_cmdRsvOp8to15 : (after (.cmdRsvOp8to15 .e32 7#3) busy32).e32.status = 0x115#32 := by decide

/-- V-E9. -/
theorem test_cmdRsvHigh : (after (.cmdRsvHigh .e32 0x8000000#28 1#4) State.reset).e32.status = 0x104#32 := by decide

/-! ## Bus transactions (V-H1 to V-H11, V-E1 to V-E15, P4) -/

/-- V-H1, V-H2. -/
theorem test_rd32_id :
    (after (.rd32 .e32 0#32) State.reset).rdata32 = 0x53480720#32 ∧ (after (.rd32 .e64 0#32) State.reset).rdata64 = 0x53480840#32 := by
  decide

/-- V-E5, V-E15: the first code is kept. -/
theorem test_rd32_misaligned :
    (after (.rd32 .e32 0x002#32) State.reset).e32.status = 0x504#32 ∧
    (after (.rd32 .e32 0x002#32) (after (.rd8 .e32 0#32) State.reset)).e32.status = 0x604#32 := by decide

/-- V-E1. -/
theorem test_rd8_control :
    (after (.rd8 .e32 0#32) State.reset).e32.status = 0x604#32 ∧ (after (.rd8 .e32 0#32) State.reset).rdata32 = 0#32 := by decide

/-- V-H6. -/
theorem test_wr32_then_reads :
    (after (.rd8 .e32 0x1002#32) (after (.wr32 .e32 0x1000#32 0x64636261#32) State.reset)).rdata32 = 0x63#32 ∧
    (after (.rd32 .e32 0x1000#32) (after (.wr32 .e32 0x1000#32 0x64636261#32) State.reset)).rdata32 = 0x64636261#32 := by decide

/-- V-E6, V-E12. -/
theorem test_wr32_refused :
    (after (.wr32 .e32 0x006#32 1#32) State.reset).e32.status = 0x504#32 ∧
    (after (.wr32 .e32 0x00C#32 5#32) busy32).e32.status = 0x315#32 ∧
    (after (.wr32 .e32 0x00C#32 5#32) busy32).e32.msgLen = 0#32 := by decide

/-- V-H7: `WDATA[31:8]` is ignored. -/
theorem test_wr8_low_byte :
    (after (.rd32 .e32 0x1000#32) (after (.wr8 .e32 0x1001#32 0x1FF#32)
      (after (.wr32 .e32 0x1000#32 0x64636261#32) State.reset))).rdata32 = 0x6463ff61#32 := by decide

/-- V-E2: BAD_WIDTH, and no command is executed. -/
theorem test_wr8_control : (after (.wr8 .e32 0x004#32 1#32) State.reset).e32.status = 0x604#32 := by decide

/-- V-E3. -/
theorem test_rd16 :
    (after (.rd16 .e32 0x100#32) State.reset).e32.status = 0x604#32 ∧ (after (.rd16 .e32 0x100#32) State.reset).rdata32 = 0#32 := by decide

/-- V-E4. -/
theorem test_rdx :
    (after (.rdx .e32 0x100#32) State.reset).e32.status = 0x604#32 ∧ (after (.rdx .e32 0x100#32) State.reset).rdata32 = 0#32 := by decide

/-- R216: dropped, at an offset where a write of 4 bytes would be stored. -/
theorem test_wr16 :
    (after (.wr16 .e32 0x00C#32 5#32) State.reset).e32.status = 0x604#32 ∧
    (after (.wr16 .e32 0x00C#32 5#32) State.reset).e32.msgLen = 0#32 := by decide

/-- R216: before the lockout of a busy instance. -/
theorem test_wrx : (after (.wrx .e32 0x1000#32 5#32) busy32).e32.status = 0x615#32 := by decide

/-! ## Phase codes -/

/-- R211: no step, also with an error recorded. -/
theorem test_idle : after (.idle .e32) (with32 fun e => { e with err := true, errCode := 1#4 }) =
    with32 fun e => { e with err := true, errCode := 1#4 } := by rfl

/-- R211. -/
theorem test_done : after (.done .e64) (with64 fun e => { e with phase := 8#4, rnd := 80#8 }) =
    with64 fun e => { e with phase := 8#4, rnd := 80#8 } := by rfl

/-- R87, U8: no engine step; BUSY = 0 and DONE = 0. -/
theorem test_reserved_phases :
    (after (.phaseRsv9 .e32) (with32 fun e => { e with phase := 9#4 })).e32.status = 0x090#32 ∧
    (after (.phaseRsv15 .e32) (with32 fun e => { e with phase := 15#4 })).e32.status = 0x0F0#32 := by decide

/-- V-C1. -/
theorem test_init :
    let t := after (.init .e64) (with64 fun e => { e with phase := 1#4, h := Vector.replicate 8 0#64, blk := 1#32, rnd := 80#8 })
    (after (.rd32 .e64 0x044#32) t).rdata64 = 0xf3bcc908#32 ∧ (after (.rd32 .e64 0x07C#32) t).rdata64 = 0x137e2179#32 ∧
      t.e64.progress = 0#32 ∧ t.e64.phase = 2#4 := by decide

/-- V-P2: the message, 0x80, and the last byte of the length field. -/
theorem test_pad :
    let e := (after (.pad .e32) (with32 fun e => { e with phase := 2#4, msgLen := 3#32, msg := abc })).e32
    e.padByte 2 = 0x63#8 ∧ e.padByte 3 = 0x80#8 ∧ e.padByte 4 = 0x00#8 ∧ e.padByte 62 = 0x00#8 ∧ e.padByte 63 = 0x18#8 ∧
      e.padLen = 64#32 := by decide

/-- V-P5: the second-block corner, `n = 56`. -/
theorem test_pad_two_blocks :
    let e := (after (.pad .e32) (with32 fun e => { e with phase := 2#4, msgLen := 56#32 })).e32
    e.padByte 56 = 0x80#8 ∧ e.padByte 57 = 0x00#8 ∧ e.padByte 119 = 0x00#8 ∧ e.padByte 126 = 0x01#8 ∧ e.padByte 127 = 0xc0#8 ∧
      e.padLen = 128#32 := by decide

/-- V-P8. -/
theorem test_segment :
    let e := (after (.segment .e32) (with32 fun e => { e with phase := 3#4, padLen := 128#32, blk := 1#32 })).e32
    e.nblk = 2#32 ∧ e.blk = 0#32 ∧ e.phase = 4#4 := by decide

/-- V-C3: the block of the empty message. -/
theorem test_expand :
    let e := (after (.expand .e32) (after (.pad .e32) (with32 fun e => { e with phase := 2#4 }))).e32
    e.sched[0] = 0x80000000#32 ∧ e.sched[16] = 0x80000000#32 ∧ e.sched[17] = 0#32 ∧ e.work.a = 0xc1059ed8#32 ∧
      e.work.hw = 0xbefa4fa4#32 ∧ e.rnd = 0#8 ∧ e.phase = 5#4 := by decide

/-- V-C4. -/
theorem test_round_from_zeros :
    (after (.round .e32) (with32 fun e => { e with phase := 5#4 })).e32.work =
      { Working.zero .e32 with a := 0x428a2f98#32, e := 0x428a2f98#32 } := by decide

/-- V-C5: the five-operand wrap. -/
theorem test_round_from_ones :
    let ones : Working .e64 := ⟨-1, -1, -1, -1, -1, -1, -1, -1⟩
    let e := (after (.round .e64) (with64 fun e => { e with phase := 5#4, work := ones, sched := Vector.replicate 80 (-1) })).e64
    e.work = { ones with a := 0x428a2f98d728ae1c#64, e := 0x428a2f98d728ae1d#64 } ∧ e.rnd = 1#8 ∧ e.phase = 5#4 := by decide

/-- V-C6, and the last block. -/
theorem test_update :
    let e := (after (.update .e32) (with32 fun e =>
      { e with phase := 6#4, nblk := 1#32, h := Vector.replicate 8 0xFFFFFFFF#32, work := ⟨1, 1, 1, 1, 1, 1, 1, 1⟩ })).e32
    e.h[0] = 0#32 ∧ e.h[7] = 0#32 ∧ e.blk = 1#32 ∧ e.phase = 7#4 := by decide

/-- V-A2, V-A3: the string, and the zero tail. -/
theorem test_assemble :
    let e := (after (.assemble .e32) (with32 fun e =>
      { e with phase := 7#4, h := #v[0x23097d22, 0, 0, 0, 0, 0, 0, 0xd2da082d] })).e32
    e.hex[0] = 0x32#8 ∧ e.hex[4] = 0x37#8 ∧ e.hex[5] = 0x64#8 ∧ e.hex[55] = 0x30#8 ∧ e.hex[56] = 0x00#8 ∧ e.phase = 8#4 := by decide

/-- R280, V-R2. -/
theorem test_reset_event :
    (match step { busy32 with inbox := [.reset .e32] } with | .next t => t.e32.status | _ => 1#32) = 0#32 := by decide

/-- V-B1 to V-B7. -/
theorem test_bit_utilities :
    rotr 0x89ABCDEF#32 4 = 0xf89abcde#32 ∧ rotl 0x89ABCDEF#32 4 = 0x9abcdef8#32 ∧ rotrNat 32 0x1FFFFFFFF 0 = 0xFFFFFFFF ∧
    rotrNat 64 0x0123456789ABCDEF 131 = 0xe02468acf13579bd ∧ shr 0x89ABCDEF#32 4 = 0x089abcde#32 ∧
    addModNat 32 [0xffffffff, 0xffffffff, 0xffffffff, 0xffffffff, 0xffffffff] = 0xfffffffb ∧
    ch 0xF0F0F0F0#32 0xCCCCCCCC#32 0xAAAAAAAA#32 = 0xcacacaca#32 ∧ maj 0xF0F0F0F0#32 0xCCCCCCCC#32 0xAAAAAAAA#32 = 0xe8e8e8e8#32 := by
  decide

theorem test_sigma_functions :
    bsig0 .e32 0x89abcdef#32 = 0x22210003#32 ∧ bsig1 .e32 0x89abcdef#32 = 0xd6316d8a#32 ∧ ssig0 .e32 0x89abcdef#32 = 0x3d5dcc4c#32 ∧
    ssig1 .e32 0x89abcdef#32 = 0x9f685f13#32 ∧ bsig0 .e64 0x0123456789abcdef#64 = 0xb7c57a100c7ec1ab#64 ∧
    bsig1 .e64 0x0123456789abcdef#64 = 0x7703112333475567#64 ∧ ssig0 .e64 0x0123456789abcdef#64 = 0x6f92c77c6c4f1aa1#64 ∧
    ssig1 .e64 0x0123456789abcdef#64 = 0x70a3460dbbd4317a#64 := by decide

/-! ## Witnesses: the hypotheses of each statement, met together

`witness_<Name>` is for `Obligations.<Name>`. Where a statement has several clauses over one input, the values are at the clauses' ends. -/

theorem witness_DecodeOfEncodeIsTheInstruction :
    (Instr.cmdRsvHigh .e64 0xFFFFFFF#28 0x3#4).wellFormed = true ∧ (Instr.wr32 .e32 0x004#32 2#32).wellFormed = true := by decide

/-- `RSV != 0` alone, and `OP` 4 and 15 alone. -/
theorem witness_ReservedCommandWordsRaiseBadCmd :
    (∃ word : Bus32, word.toNat / 16 ≠ 0 ∧ word.toNat % 16 = 0) ∧ (∃ word : Bus32, word.toNat / 16 = 0 ∧ word.toNat % 16 = 4) ∧
      ∃ word : Bus32, word.toNat / 16 = 0 ∧ word.toNat % 16 = 15 :=
  ⟨⟨0x10#32, by decide⟩, ⟨4#32, by decide⟩, ⟨15#32, by decide⟩⟩

theorem witness_EveryCodeIsThatOfOneRow :
    (Instr.cmdRsvOp8to15 .e32 5#3).wellFormed = true ∧ (Instr.cmdRsvOp8to15 .e32 5#3).variant = .e32 ∧
      encode (.cmdRsvOp8to15 .e32 5#3) = .command 0xD#32 := by decide

theorem witness_StepRunsTheDecodedInstruction :
    ((withInbox [.engine .e32]).inbox = .engine .e32 :: [] ∧
      decode .e32 (.phase ((withInbox [.engine .e32]).engine .e32).phase) = .idle .e32) ∧
    ((withInbox [.bus .e64 (.read 2#2 0#32)]).inbox = .bus .e64 (.read 2#2 0#32) :: [] ∧
      decode .e64 (BusAccess.code (.read 2#2 0#32)) = .rd32 .e64 0#32) ∧
    (busy32.inbox = [] ∧ Variant.e32 ≠ .e64 ∧ (busy32.engine .e32).busy = true ∧ (busy32.engine .e64).busy = false ∧
      decode .e32 (.phase (busy32.engine .e32).phase) = .init .e32) := by decide

theorem witness_ResetEventResetsOneInstance : (withInbox [.reset .e64, .engine .e32]).inbox = .reset .e64 :: [.engine .e32] := by decide

/-- An instance in a given phase, otherwise as after reset, that meets the invariant of every phase in which nothing has been computed. -/
theorem fresh_inv {v : Variant} (p : Params) (work : Working v) (sched : Sched v) (phase : BitVec 4) (hp : phase = 0#4 ∨ phase = 1#4) :
    ({ Engine.atReset v 0 work sched with phase := phase } : Engine v).Inv p where
  phase := by rcases hp with rfl | rfl <;> simp
  error := by simp [Engine.errorLegal, Engine.atReset]
  hex := .inl fun i => by simp [Engine.atReset]
  msgForm := by simp [Engine.atReset]
  msgBound := by simp [Engine.atReset]
  padForm := by simp [Engine.atReset]
  padBound := by simp [Engine.atReset]
  length := by simp [Engine.atReset]
  blocks := by simp [Engine.atReset]
  round := by simp [Engine.atReset]
  sequenced := by rcases hp with rfl | rfl <;> simp [Engine.sequenced, Engine.freshRun, Engine.atReset]

/-- Engine-32 in INIT with a START of Engine-64 to come. -/
def running : State := { busy32 with inbox := [.bus .e64 (.write 2#2 0x004#32 1#32)] }

theorem running_inv : running.Inv :=
  ⟨fresh_inv _ _ _ _ (.inr rfl), fresh_inv _ (Working.zero .e64) (Vector.replicate 80 0#64) 0#4 (.inl rfl)⟩

theorem witness_EveryStepKeepsTheInvariant : ∃ s t : State, s.Inv ∧ step s = .next t ∧ t.e64.busy = true :=
  ⟨running, _, running_inv, rfl, by decide⟩

theorem witness_CountersStayInRange : ∃ s t : State, s.Inv ∧ core.run 1 s = .next t ∧ (t.engine .e64).busy = true :=
  ⟨running, _, running_inv, run_succ 0 rfl, by decide⟩

/-- `MSG_LEN = MSG_CAP`, the largest length that fits. -/
theorem witness_StartBeginsARun :
    let s := with32 fun e => { e with msgLen := 4096#32 }
    (s.engine .e32).busy = false ∧ (s.engine .e32).msgLen.toNat ≤ msgCap s.par := by decide

/-- Busy; and not busy with `MSG_LEN = MSG_CAP + 1`. -/
theorem witness_StartIsRefusedWhenBusyOrTooLong :
    (busy32.engine .e32).busy = true ∧
    (let s := with32 fun e => { e with msgLen := 4097#32 }
     (s.engine .e32).busy = false ∧ msgCap s.par < (s.engine .e32).msgLen.toNat) := by decide

/-- The ends of every clause: the six registers, 0x01C and 0x03C, 0x080 and 0x0FC. -/
theorem witness_ControlRegistersReadAsListed :
    ∀ off ∈ [0x000#32, 0x004#32, 0x00C#32, 0x010#32, 0x014#32, 0x018#32, 0x01C#32, 0x03C#32, 0x080#32, 0x0FC#32],
      off.toNat < 0x100 ∧ off.toNat % 4 = 0 := by simp

/-- The ends of HEXWIN, RESERVED, MSGWIN and UNMAPPED. -/
theorem witness_WordReadsOfTheByteRegions :
    (∀ off ∈ [0x100#32, 0x17C#32], 0x100 ≤ off.toNat ∧ off.toNat % 4 = 0 ∧ off.toNat < 0x180) ∧
    (∀ off ∈ [0x180#32, 0xFFC#32], off.toNat % 4 = 0 ∧ 0x180 ≤ off.toNat ∧ off.toNat < 0x1000) ∧
    (∀ off ∈ [0x1000#32, 0x1FFC#32], off.toNat % 4 = 0 ∧ 0x1000 ≤ off.toNat ∧ off.toNat < 0x1000 + msgCap State.reset.par) ∧
    (∀ off ∈ [0x2000#32, 0xFFFFFFFC#32], off.toNat % 4 = 0 ∧ 0x1000 + msgCap State.reset.par ≤ off.toNat) := by
  simp [msgCap, State.reset, State.resetWith, Params.suggested]

theorem witness_MisalignedReadIsRefused : (0x002#32).toNat % 4 ≠ 0 ∧ (0xFFFFFFFF#32).toNat % 4 ≠ 0 := by decide

/-- The ends of CONTROL, HEXWIN, RESERVED, MSGWIN and UNMAPPED. -/
theorem witness_ByteReadsReturnTheByte :
    (∀ off ∈ [0x000#32, 0x0FF#32], off.toNat < 0x100) ∧ (∀ off ∈ [0x100#32, 0x17F#32], 0x100 ≤ off.toNat ∧ off.toNat < 0x180) ∧
    (∀ off ∈ [0x180#32, 0xFFF#32], 0x180 ≤ off.toNat ∧ off.toNat < 0x1000) ∧
    (∀ off ∈ [0x1000#32, 0x1FFF#32], 0x1000 ≤ off.toNat ∧ off.toNat < 0x1000 + msgCap State.reset.par) ∧
    (∀ off ∈ [0x2000#32, 0xFFFFFFFF#32], 0x1000 + msgCap State.reset.par ≤ off.toNat) := by
  simp [msgCap, State.reset, State.resetWith, Params.suggested]

theorem witness_WordReadIsFourByteReads :
    ∀ off ∈ [0x100#32, 0x1000#32, 0xFFFFFFFC#32], 0x100 ≤ off.toNat ∧ off.toNat % 4 = 0 := by simp

theorem witness_MsgLenStoresAnyValue : (State.reset.engine .e64).busy = false := by decide

/-- The first and the last word of MSGWIN; a byte before it and one after it. -/
theorem witness_WordWriteStoresFourLanes :
    (State.reset.engine .e32).busy = false ∧
    (∀ off ∈ [0x1000#32, 0x1FFC#32], off.toNat % 4 = 0 ∧ 0x1000 ≤ off.toNat ∧ off.toNat < 0x1000 + msgCap State.reset.par) ∧
    4091 < (0x1FFC#32).toNat - 0x1000 ∧ (0x1000#32).toNat - 0x1000 + 4 ≤ 4 := by
  simp [msgCap, Engine.busy, State.engine, State.reset, State.resetWith, Engine.atReset, Params.suggested]

/-- The first and the last byte of MSGWIN. -/
theorem witness_ByteWriteStoresOneByte :
    (State.reset.engine .e32).busy = false ∧
    (∀ off ∈ [0x1000#32, 0x1FFF#32], 0x1000 ≤ off.toNat ∧ off.toNat < 0x1000 + msgCap State.reset.par) ∧
    (0 : Nat) ≠ (0x1FFF#32).toNat - 0x1000 := by
  simp [msgCap, Engine.busy, State.engine, State.reset, State.resetWith, Engine.atReset, Params.suggested]

theorem witness_WordWriteIsFourByteWrites :
    ∃ s s0 s1 s2 s3 : State, s.Inv ∧ (s.engine .e64).busy = false ∧ (0x1FFC#32).toNat % 4 = 0 ∧ 0x1000 ≤ (0x1FFC#32).toNat ∧
      (0x1FFC#32).toNat < 0x1000 + msgCap s.par ∧
      exec (.wr8 .e64 0x1FFC#32 0x64636261#32) s = .next s0 ∧ exec (.wr8 .e64 (0x1FFC#32 + 1#32) (0x64636261#32 >>> 8)) s0 = .next s1 ∧
      exec (.wr8 .e64 (0x1FFC#32 + 2#32) (0x64636261#32 >>> 16)) s1 = .next s2 ∧
      exec (.wr8 .e64 (0x1FFC#32 + 3#32) (0x64636261#32 >>> 24)) s2 = .next s3 :=
  ⟨running, _, _, _, _, running_inv, by decide, by decide, by decide, by decide, rfl, rfl, rfl, rfl⟩

theorem witness_WritesElsewhereAreIgnored :
    (∀ off ∈ [0x000#32, 0x008#32, 0x0FC#32, 0x100#32, 0xFFC#32, 0x2000#32], off.toNat % 4 = 0 ∧ off.toNat ≠ 0x004 ∧ off.toNat ≠ 0x00C ∧
      (off.toNat < 0x1000 ∨ 0x1000 + msgCap State.reset.par ≤ off.toNat)) ∧
    (∀ off ∈ [0x100#32, 0xFFF#32, 0x2000#32], 0x100 ≤ off.toNat ∧ (off.toNat < 0x1000 ∨ 0x1000 + msgCap State.reset.par ≤ off.toNat)) := by
  simp [msgCap, State.reset, State.resetWith, Params.suggested]

/-- One access for every error of the rule's order, and one without an error. -/
theorem witness_FirstFailingCheckDecidesTheError :
    (State.reset.engine .e32).err = false ∧ (busy32.engine .e32).err = false ∧
    accessError State.reset.par State.reset.e32 (.read 1#2 0x002#32) = some .badWidth ∧
    accessError State.reset.par State.reset.e32 (.write 2#2 0x006#32 0x10#32) = some .misaligned ∧
    accessError State.reset.par State.reset.e32 (.write 0#2 0x0FF#32 1#32) = some .badWidth ∧
    accessError busy32.par busy32.e32 (.write 2#2 0x00C#32 5#32) = some .busyWrite ∧
    accessError busy32.par busy32.e32 (.write 2#2 0x004#32 0x11#32) = some .badCmd ∧
    accessError busy32.par busy32.e32 (.write 2#2 0x004#32 1#32) = some .busyCmd ∧
    accessError State.reset.par { State.reset.e32 with msgLen := 4097#32 } (.write 2#2 0x004#32 1#32) = some .lenRange ∧
    accessError State.reset.par State.reset.e32 (.write 2#2 0x004#32 1#32) = none := by decide

/-- With an error recorded and not busy: a misaligned write inside MSGWIN, a byte write to CONTROL, and a refused read. -/
theorem witness_FirstFailingCheckDecidesTheError_after_an_error :
    let s := with32 fun e => { e with err := true, errCode := 1#4 }
    s.e32.err = true ∧ s.e32.busy = false ∧ accessError s.par s.e32 (.write 2#2 0x1002#32 1#32) = some .misaligned ∧
      accessError s.par s.e32 (.write 0#2 0x004#32 1#32) = some .badWidth ∧
      accessError s.par s.e32 (.read 2#2 0x1001#32) = some .misaligned := by decide

/-- An instruction that clears the record, one that keeps it, one of the other instance, and a reset of each. -/
theorem witness_OnlyClrErrClearAndResetClearErrors :
    let s := with32 fun e => { e with err := true, errCode := 6#4 }
    (s.engine .e32).err = true ∧ Instr.wr32 .e32 0x004#32 2#32 = .wr32 .e32 0x004#32 2#32 ∧
      (∀ i ∈ [Instr.start .e32, .clear .e64, .wr32 .e32 0x004#32 1#32],
        ¬ (i = .clrErr .e32 ∨ i = .clear .e32 ∨ i = .wr32 .e32 0x004#32 3#32 ∨ i = .wr32 .e32 0x004#32 2#32)) ∧
      ({ s with inbox := [.reset .e32] } : State).inbox = .reset .e32 :: [] ∧
      ({ s with inbox := [.reset .e64] } : State).inbox = .reset .e64 :: [] ∧ Variant.e32 ≠ .e64 := by decide

theorem witness_BusyAccessesChangeOnlyTheErrorRecord :
    (busy32.engine .e32).busy = true ∧ ¬ (Stimulus.bus .e32 (.write 2#2 0x1000#32 0x41414141#32)).aborts .e32 := by
  refine ⟨by decide, ?_⟩
  unfold Stimulus.aborts
  decide

/-- `n = 3` on Engine-32, where `q = 64`: the ends of the five ranges of bytes. -/
theorem witness_PadWritesThePaddedMessage :
    let s := with32 fun e => { e with phase := 2#4, msgLen := 3#32, msg := abc }
    3 = (s.engine .e32).msgLen.toNat ∧ 3 ≤ msgCap s.par ∧ 64 % blockBytes .e32 = 0 ∧ 3 + 1 + lenBytes .e32 ≤ 64 ∧
      64 < 3 + 1 + lenBytes .e32 + blockBytes .e32 ∧ (2 < 3 ∧ 3 < 4 ∧ 55 < 64 - lenBytes .e32 ∧ 7 < lenBytes .e32 ∧ 64 ≤ 64) := by decide

theorem witness_PaddedBytesAreThePaddedBitSequence : ([] : List Byte).length ≤ 2 ^ 24 ∧ [0x61#8, 0x62#8, 0x63#8].length ≤ 2 ^ 24 := by
  decide

/-- `n = 0` on Engine-32: 447 zero bits fill the block, and so do 512 more. -/
theorem witness_ZeroBitsAreTheFewestThatFillABlock :
    (8 * ([] : List Byte).length + 1 + 447) % blockBits .e32 = blockBits .e32 - lenBits .e32 ∧
    (8 * ([] : List Byte).length + 1 + 959) % blockBits .e32 = blockBits .e32 - lenBits .e32 := by decide

theorem witness_SegmentCountsTheBlocks :
    let s := with32 fun e => { e with phase := 3#4, msgLen := 56#32, padLen := 128#32 }
    (s.engine .e32).padLen.toNat = paddedLen .e32 56 := by decide

/-- The last word of the second block of a message of 56 bytes. -/
theorem witness_BlockWordsAreThePaddedWords :
    ∃ s t : State, 56 = (s.engine .e32).msgLen.toNat ∧ 56 ≤ msgCap s.par ∧ exec (.pad .e32) s = .next t ∧
      1 < Reference.blockCount .e32 56 ∧ 15 < 16 :=
  ⟨with32 fun e => { e with phase := 2#4, msgLen := 56#32 }, _, by decide, by decide, rfl, by decide, by decide⟩

/-- `t = 15`; `t = 16` and `t = R - 1` with the four words they are the sum of. -/
theorem witness_ExpandFillsTheSchedule :
    (15 < 16 ∧ 15 < Variant.rounds .e32) ∧
    (∃ t a b c d : Fin (Variant.rounds .e32), 16 ≤ t.val ∧ t.val = 16 ∧ a.val + 16 = t.val ∧ b.val + 15 = t.val ∧ c.val + 7 = t.val ∧
      d.val + 2 = t.val) ∧
    ∃ t a b c d : Fin (Variant.rounds .e64), 16 ≤ t.val ∧ t.val = 79 ∧ a.val + 16 = t.val ∧ b.val + 15 = t.val ∧ c.val + 7 = t.val ∧
      d.val + 2 = t.val :=
  ⟨by decide, ⟨⟨16, by decide⟩, ⟨0, by decide⟩, ⟨1, by decide⟩, ⟨9, by decide⟩, ⟨14, by decide⟩, by decide⟩,
    ⟨⟨79, by decide⟩, ⟨63, by decide⟩, ⟨64, by decide⟩, ⟨72, by decide⟩, ⟨77, by decide⟩, by decide⟩⟩

/-- The first and the last round of Engine-64, with their constants (V-C2); after the last, `t + 1 = R`. -/
theorem witness_RoundUpdatesTheWorkingRegisters :
    (with64 fun e => { e with phase := 5#4 }).e64.rnd.toNat = 0 ∧ (kTable .e64)[0]? = some 0x428a2f98d728ae22#64 ∧
    0 + 1 ≠ Variant.rounds .e64 ∧
    (with64 fun e => { e with phase := 5#4, rnd := 79#8 }).e64.rnd.toNat = 79 ∧ (kTable .e64)[79]? = some 0x6c44198c4a475817#64 ∧
    79 + 1 = Variant.rounds .e64 := by decide

/-- A block that is not the last, and one that is. -/
theorem witness_UpdateAddsTheWorkingRegisters :
    (let e := (with32 fun e => { e with phase := 6#4, nblk := 2#32 }).e32
     e.blk.toNat + 1 < 2 ^ 32 ∧ e.blk.toNat + 1 < e.nblk.toNat) ∧
    (let e := (with32 fun e => { e with phase := 6#4, nblk := 2#32, blk := 1#32 }).e32
     e.blk.toNat + 1 < 2 ^ 32 ∧ e.nblk.toNat ≤ e.blk.toNat + 1) := by decide

/-- The last character of each string, and Engine-32's first byte after it. -/
theorem witness_AssembleRendersTheDigest :
    (∃ (i : Fin 128) (k : Fin 8), i.val = 55 ∧ i.val < hexLen .e32 ∧ k.val = i.val / (Variant.w .e32 / 4) ∧
      i.val % (Variant.w .e32 / 4) = 7 ∧ k.val = 6) ∧
    (∃ (i : Fin 128) (k : Fin 8), i.val = 127 ∧ i.val < hexLen .e64 ∧ k.val = i.val / (Variant.w .e64 / 4) ∧
      i.val % (Variant.w .e64 / 4) = 15 ∧ k.val = 7) ∧
    ∃ i : Fin 128, i.val = 56 ∧ hexLen .e32 ≤ i.val :=
  ⟨⟨55, 6, by decide⟩, ⟨127, 7, by decide⟩, ⟨56, by decide⟩⟩

theorem witness_DigestIsLowercaseHexOfFixedLength :
    (0 < hexLen .e32 ∧ 55 < hexLen .e32 ∧ hexLen .e32 ≤ 56 ∧ hexLen .e32 ≤ 127) ∧ 127 < hexLen .e64 := by decide

theorem witness_NativeWordsEqualTheMaskedForms : 0 < Variant.w .e32 ∧ 31 < Variant.w .e32 ∧ 63 < Variant.w .e64 := by decide

theorem witness_RotationLaws : (0 : Nat) < 1 ∧ 0 < 32 ∧ 0 < 64 := by decide

/-- 23 is the ninth prime and 2 the first. -/
theorem witness_InitialStateIsSquareRootFractions :
    (Nat.Prime 23 ∧ Nat.primeCounting' 23 = (0 : Fin 8).val + 8) ∧ Nat.Prime 2 ∧ Nat.primeCounting' 2 = (0 : Fin 8).val := by
  refine ⟨⟨by norm_num, by decide⟩, by norm_num, by decide⟩

/-- `floor(cbrt(2) * 2^32) = 0x1428a2f98`. -/
theorem witness_RoundConstantsAreCubeRootFractions :
    0 < Variant.rounds .e32 ∧ Nat.Prime 2 ∧ Nat.primeCounting' 2 = 0 ∧ 0x1428a2f98 ^ 3 ≤ 2 * 2 ^ (3 * Variant.w .e32) ∧
      2 * 2 ^ (3 * Variant.w .e32) < (0x1428a2f98 + 1) ^ 3 := by
  refine ⟨by decide, by norm_num, by decide, by norm_num, by norm_num⟩

/-- The ends of the five regions. -/
theorem witness_RegionsOfAWindow :
    region Params.suggested 0x0FF = .control ∧ region Params.suggested 0x100 = .hexwin ∧ region Params.suggested 0x17F = .hexwin ∧
    region Params.suggested 0x180 = .reserved ∧ region Params.suggested 0xFFF = .reserved ∧ region Params.suggested 0x1000 = .msgwin ∧
    region Params.suggested 0x1FFF = .msgwin ∧ region Params.suggested 0x2000 = .unmapped := by decide

/-- Every element is changed by some instruction: the datapath's. -/
theorem witness_OnlyTheListedInstructionsWriteEachElement :
    let s := with32 fun e => { e with phase := 6#4, work := ⟨1, 1, 1, 1, 1, 1, 1, 1⟩ }
    (after (.update .e32) s).e32.h[0] ≠ s.e32.h[0] ∧ (after (.assemble .e32) State.reset).e32.hex[0] ≠ State.reset.e32.hex[0] ∧
    (after (.round .e32) State.reset).e32.work ≠ State.reset.e32.work ∧
    (after (.expand .e32) (after (.pad .e32) State.reset)).e32.sched[0] ≠ State.reset.e32.sched[0] ∧
    (after (.pad .e32) State.reset).e32.padBuf ≠ State.reset.e32.padBuf ∧
    (after (.pad .e32) State.reset).e32.padLen ≠ State.reset.e32.padLen := by decide

/-- The sequencer's, the error record's and the message's; START, with its two conditions. -/
theorem witness_OnlyTheListedInstructionsWriteEachElement_shell :
    let s := with32 fun e => { e with phase := 6#4, padLen := 128#32, err := true, errCode := 3#4 }
    (after (.start .e32) State.reset).e32.phase ≠ State.reset.e32.phase ∧ State.reset.e32.busy = false ∧
    State.reset.e32.msgLen.toNat ≤ msgCap State.reset.par ∧ (after (.update .e32) s).e32.blk ≠ s.e32.blk ∧
    (after (.round .e32) s).e32.rnd ≠ s.e32.rnd ∧ (after (.segment .e32) s).e32.nblk ≠ s.e32.nblk ∧
    (after (.clrErr .e32) s).e32.err ≠ s.e32.err ∧
    (after (.wr16 .e32 0#32 0#32) State.reset).e32.errCode ≠ State.reset.e32.errCode ∧
    (after (.wr32 .e32 0x00C#32 5#32) State.reset).e32.msgLen ≠ State.reset.e32.msgLen ∧
    (after (.wr8 .e32 0x1FFF#32 5#32) State.reset).e32.msg ≠ State.reset.e32.msg := by decide

theorem witness_InstancesCommute :
    Variant.e64 ≠ (Instr.start .e32).variant ∧
    ∃ s t u : State, (Instr.start .e32).variant ≠ (Instr.wr32 .e64 0x00C#32 5#32).variant ∧ exec (.start .e32) s = .next t ∧
      exec (.wr32 .e64 0x00C#32 5#32) s = .next u :=
  ⟨by decide, State.reset, _, _, by decide, rfl, rfl⟩

/-- Two states that differ in `A`. -/
theorem witness_UnspecifiedElementsAreNeverObserved :
    ∃ s t : State, s ≠ t ∧ s.Inv ∧ s.sameButScratch t ∧ s.e32.beforePad ∧ s.e64.beforePad := by
  refine ⟨running, { running with e32 := { running.e32 with work := { running.e32.work with a := 1#32 } } }, ?_, running_inv,
    ⟨rfl, rfl, rfl⟩, .inl (by decide), .inl (by decide)⟩
  intro h
  exact absurd (congrArg (fun s => s.e32.work.a) h) (by decide)

theorem not_aborts_engine (u v : Variant) : ¬ (Stimulus.engine u).aborts v := by simp [Stimulus.aborts]

/-- 69 of the 70 micro-steps, and a START in between. -/
theorem witness_RunIsBusyUntilItsLastMicroStep :
    let xs := Stimulus.bus .e32 (.write 2#2 0x004#32 1#32) :: List.replicate 69 (.engine .e32)
    let s := { busy32 with inbox := xs }
    (s.engine .e32).phase = 1#4 ∧ (s.engine .e32).msgLen.toNat ≤ msgCap s.par ∧ (∀ x ∈ xs, ¬ x.aborts .e32) ∧
      xs.count (Stimulus.engine .e32) < Reference.runLength .e32 (s.engine .e32).msgLen.toNat ∧ s.inbox = xs ++ [] := by
  refine ⟨rfl, by decide, ?_, by decide, rfl⟩
  intro x hx
  rcases List.mem_cons.mp hx with rfl | hx
  · simp [Stimulus.aborts]
  · rw [List.eq_of_mem_replicate hx]
    exact not_aborts_engine _ _

theorem witness_HashRunEndsWithTheDigest :
    let xs := List.replicate 69 (Stimulus.engine .e32)
    let s := { busy32 with inbox := xs ++ [Stimulus.engine .e32] }
    (s.engine .e32).phase = 1#4 ∧ (s.engine .e32).msgLen.toNat ≤ msgCap s.par ∧ (∀ x ∈ xs, ¬ x.aborts .e32) ∧
      xs.count (Stimulus.engine .e32) + 1 = Reference.runLength .e32 (s.engine .e32).msgLen.toNat ∧ s.inbox = xs ++ .engine .e32 :: [] := by
  refine ⟨rfl, by decide, ?_, by decide, rfl⟩
  intro x hx
  rw [List.eq_of_mem_replicate hx]
  exact not_aborts_engine _ _

theorem witness_HashScriptLeavesTheDigest :
    let m := [0x61#8, 0x62#8, 0x63#8]
    let s := withInbox (Script.hashRun .e32 m (Reference.runLength .e32 m.length))
    (s.engine .e32).busy = false ∧ m.length ≤ msgCap s.par ∧ s.inbox = Script.hashRun .e32 m (Reference.runLength .e32 m.length) := by
  refine ⟨by decide, by decide, rfl⟩

/-- Engine-32 in PAD, with its INIT done and its micro-step to come. -/
def padding : State := { with32 (fun e => { e with phase := 2#4 }) with inbox := [.engine .e32] }

theorem witness_EveryStepKeepsTheRunsOnCourse : ∃ s t : State, s.OnCourse ∧ step s = .next t ∧ t.e32.phase = 3#4 := by
  refine ⟨padding, _, ⟨?_, ?_⟩, rfl, by decide⟩
  · constructor <;> simp [padding, with32, State.reset, State.resetWith, Engine.atReset]
  · constructor <;> simp [padding, with32, State.reset, State.resetWith, Engine.atReset, Engine.busy]

end Sys2Proof.Tests
end

/-! # The state's obligations (10_state.md)

What an instruction and a step may make of an engine (`Engine.ChangedBy`, `Engine.StepTo`), the invariant, who writes what, the elements
that are never observed, and the registers of CONTROL. -/

namespace Sys2Proof.Machine

/-! ## Every instruction by what it does to an engine -/

/-- The code of a decoded phase code is the code (R86, R87). -/
theorem encode_decodePhase (v : Variant) (code : BitVec 4) : encode (decodePhase v code) = .phase code := by
  cases v <;> (revert code; decide)

/-- A bus transaction never decodes to a micro-operation (R80). -/
theorem encode_decode_access_ne_phase (v : Variant) (access : BusAccess) (code : BitVec 4) :
    encode (decode v access.code) ≠ .phase code := by
  have hbus : ∀ a, encode (decode v (.bus a)) ≠ .phase code := by
    rintro (⟨size, off⟩ | ⟨size, off, wdata⟩) <;> simp only [decode, decodeBus] <;> split_ifs <;> simp [encode]
  have hcmd : ∀ word, encode (decode v (.command word)) ≠ .phase code := by
    intro word
    simp only [decode, decodeCommand]
    split_ifs <;> simp [encode]
  cases access with
  | read size off => exact hbus _
  | write size off wdata =>
    simp only [BusAccess.code]
    split
    · exact hcmd wdata
    · exact hbus _

/-- What the instruction `i` may make of engine `v`: the operations it can apply, each with the instructions that apply it and the conditions
under which they do. -/
inductive Engine.ChangedBy (p : Params) {v : Variant} (e : Engine v) : Instr → Engine v → Prop
  | keep {i : Instr} : ChangedBy p e i e
  | raise {i : Instr} (c : IfaceError) (own : i.variant = v) (host : ∀ code, encode i ≠ .phase code) : ChangedBy p e i (e.raise c)
  | clearError {i : Instr} (cmd : i = .clrErr v ∨ i = .wr32 v 0x004#32 3#32) : ChangedBy p e i e.clearError
  | clear {i : Instr} (cmd : i = .clear v ∨ i = .wr32 v 0x004#32 2#32) : ChangedBy p e i e.clear
  | start {i : Instr} (cmd : i = .start v ∨ i = .wr32 v 0x004#32 1#32) (waiting : e.busy = false)
      (fits : e.msgLen.toNat ≤ msgCap p) : ChangedBy p e i { e with phase := 1#4 }
  | setLen (x : Bus32) (waiting : e.busy = false) : ChangedBy p e (.wr32 v 0x00C#32 x) { e with msgLen := x }
  | storeMsg {i : Instr} (off x : Bus32) (bs : List Byte) (waiting : e.busy = false) (low : 0x1000 ≤ off.toNat)
      (high : off.toNat + bs.length ≤ 0x1000 + msgCap p) (nonempty : bs ≠ [])
      (write : i = .wr8 v off x ∨ (off.toNat % 4 = 0 ∧ i = .wr32 v off x)) : ChangedBy p e i (e.storeMsg off.toNat bs)
  | init : ChangedBy p e (.init v) e.init
  | pad : ChangedBy p e (.pad v) e.pad
  | segment : ChangedBy p e (.segment v) e.segment
  | expand : ChangedBy p e (.expand v) e.expand
  | round : ChangedBy p e (.round v) e.round
  | update : ChangedBy p e (.update v) e.update
  | assemble : ChangedBy p e (.assemble v) e.assemble

section
variable {v : Variant} (p : Params) (e : Engine v)

theorem Engine.changedBy_wr32 (off wdata : Bus32) : e.ChangedBy p (.wr32 v off wdata) (e.wr32 p off wdata) := by
  have raised (c : IfaceError) : e.ChangedBy p (.wr32 v off wdata) (e.raise c) := .raise c rfl (by simp [encode])
  rcases e.wr32_cases p off wdata with h | ⟨c, h⟩ | ⟨hb, rfl, h⟩ | ⟨rfl, h⟩ | ⟨hb, ha, hr, h⟩ <;> rw [h]
  · exact .keep
  · exact raised c
  · exact .setLen wdata hb
  · rcases e.execCmd_word p wdata with ⟨rfl, h⟩ | ⟨rfl, h⟩ | ⟨-, -, h | ⟨c, h⟩ | ⟨rfl, hb, hl, h⟩⟩ <;> rw [h]
    · exact .clear (.inr rfl)
    · exact .clearError (.inr rfl)
    · exact .keep
    · exact raised c
    · exact .start (.inr rfl) hb hl
  · obtain ⟨hlow, hhigh⟩ := (region_msgwin_iff p _).mp hr
    have := msgCap_mod p
    exact .storeMsg off wdata _ hb hlow (by rw [lanes_length]; omega) (by simp [lanes]) (.inr ⟨ha, rfl⟩)

theorem Engine.changedBy_wr8 (off wdata : Bus32) : e.ChangedBy p (.wr8 v off wdata) (e.wr8 p off wdata) := by
  rcases e.wr8_cases p off wdata with h | ⟨c, h⟩ | ⟨hb, hr, h⟩ <;> rw [h]
  · exact .keep
  · exact .raise c rfl (by simp [encode])
  · obtain ⟨hlow, hhigh⟩ := (region_msgwin_iff p _).mp hr
    exact .storeMsg off wdata _ hb hlow (by simpa using hhigh) (by simp) (.inl rfl)

theorem Engine.changedBy_rd32 (off : Bus32) : e.ChangedBy p (.rd32 v off) (e.rd32 p off).1 := by
  rcases e.rd32_cases p off with ⟨-, h⟩ | ⟨-, h⟩ <;> rw [h]
  · exact .keep
  · exact .raise _ rfl (by simp [encode])

theorem Engine.changedBy_rd8 (off : Bus32) : e.ChangedBy p (.rd8 v off) (e.rd8 p off).1 := by
  rcases e.rd8_cases p off with ⟨-, h⟩ | ⟨-, h⟩ <;> rw [h]
  · exact .keep
  · exact .raise _ rfl (by simp [encode])

theorem Engine.changedBy_start : e.ChangedBy p (.start v) (e.start p) := by
  rcases e.start_cases p with ⟨-, h⟩ | ⟨-, -, h⟩ | ⟨hb, hl, h⟩ <;> rw [h]
  · exact .raise _ rfl (by simp [encode])
  · exact .raise _ rfl (by simp [encode])
  · exact .start (.inl rfl) hb hl

end

/-- What an instruction makes of its own engine. -/
theorem changedBy_effect (p : Params) (i : Instr) (e : Engine i.variant) : e.ChangedBy p i (effect p i e) := by
  cases i with
  | nop | idle | done | phaseRsv9 | phaseRsv10 | phaseRsv11 | phaseRsv12 | phaseRsv13 | phaseRsv14 | phaseRsv15 => exact .keep
  | start => exact e.changedBy_start p
  | clear => exact .clear (.inl rfl)
  | clrErr => exact .clearError (.inl rfl)
  | cmdRsvOp4to7 | cmdRsvOp8to15 | cmdRsvHigh | rd16 | rdx | wr16 | wrx => exact .raise _ rfl (by simp [encode])
  | rd8 v off => exact e.changedBy_rd8 p off
  | rd32 v off => exact e.changedBy_rd32 p off
  | wr8 v off x => exact e.changedBy_wr8 p off x
  | wr32 v off x => exact e.changedBy_wr32 p off x
  | init => exact .init
  | pad => exact .pad
  | segment => exact .segment
  | expand => exact .expand
  | round => exact .round
  | update => exact .update
  | assemble => exact .assemble

/-- Everything an instruction does to the engines: each changes as `ChangedBy` lists. -/
theorem exec_changedBy (i : Instr) (s : State) :
    ∃ t, exec i s = .next t ∧ t.par = s.par ∧ ∀ u, (s.engine u).ChangedBy s.par i (t.engine u) := by
  obtain ⟨t, ht, hown, hother, hpar, -, -⟩ := exec_next i s
  refine ⟨t, ht, hpar, fun u => ?_⟩
  by_cases hu : u = i.variant
  · subst hu
    rw [hown]
    exact changedBy_effect s.par i _
  · rw [(hother u hu).1]
    exact .keep

/-! ## Every step by what it does to an engine -/

/-- What one step may make of an engine: the reset values, or what a host instruction or the micro-operation of its `PHASE` makes of it. -/
def Engine.StepTo (p : Params) {v : Variant} (e f : Engine v) : Prop :=
  f = e.resetEvent ∨ ∃ i, e.ChangedBy p i f ∧ (i.variant = v → ∀ code, encode i = .phase code → code = e.phase)

/-- An instruction whose code is no phase code, or that of its own engine's `PHASE`, is a step for both engines. -/
theorem exec_stepTo {i : Instr} {s t : State} (h : exec i s = .next t)
    (hcode : ∀ code, encode i = .phase code → code = (s.engine i.variant).phase) :
    t.par = s.par ∧ ∀ u, (s.engine u).StepTo s.par (t.engine u) := by
  obtain ⟨t', ht, hpar, heff⟩ := exec_changedBy i s
  obtain rfl : t' = t := by simpa [h] using ht.symm
  exact ⟨hpar, fun u => .inr ⟨i, heff u, fun hu => by subst hu; exact hcode⟩⟩

/-- An engine's own micro-step meets the condition of `exec_stepTo`. -/
theorem code_of_decodePhase (s : State) (v : Variant) (code : BitVec 4)
    (h : encode (decodePhase v (s.engine v).phase) = .phase code) :
    code = (s.engine (decodePhase v (s.engine v).phase).variant).phase := by
  have hv : (decodePhase v (s.engine v).phase).variant = v := variant_decode v (.phase _)
  rw [hv]
  simpa [encode_decodePhase] using h.symm

theorem State.engine_inbox (s : State) (xs : List Stimulus) (u : Variant) : { s with inbox := xs }.engine u = s.engine u := by
  cases u <;> rfl

theorem State.engine_picks (s : State) (n : Nat) (u : Variant) : { s with picks := n }.engine u = s.engine u := by
  cases u <;> rfl

/-- Everything a step does to the parameters and the engines (R210). -/
theorem step_stepTo {s t : State} (h : step s = .next t) : t.par = s.par ∧ ∀ u, (s.engine u).StepTo s.par (t.engine u) := by
  match hs : s.inbox with
  | [] =>
    rw [step_nil hs] at h
    simpa [State.engine_picks] using exec_stepTo h (code_of_decodePhase { s with picks := s.picks + 1 } _)
  | .engine v :: rest =>
    rw [step_engine hs] at h
    simpa [State.engine_inbox] using exec_stepTo h (code_of_decodePhase { s with inbox := rest } v)
  | .bus v access :: rest =>
    rw [step_bus hs] at h
    simpa [State.engine_inbox] using exec_stepTo h fun code hc => absurd hc (encode_decode_access_ne_phase v access code)
  | .reset v :: rest =>
    rw [step_reset hs] at h
    obtain rfl : { s with inbox := rest }.setEngine v (s.engine v).resetEvent = t := by simpa using h
    refine ⟨by simp, fun u => ?_⟩
    by_cases hu : u = v
    · subst hu
      exact .inl (by simp)
    · rw [State.engine_setEngine_ne _ hu, State.engine_inbox]
      exact .inr ⟨.nop u, .keep, by simp [encode]⟩

/-! ## The invariant: HEX, the error record and reset -/

section
variable {v : Variant}

theorem isHexChar_ascii (d : BitVec 4) : isHexChar (ascii d) := by
  revert d
  unfold isHexChar
  decide

/-- Every character of the digest string is a lowercase hexadecimal digit (R193). -/
theorem isHexChar_of_mem_digestString {h : Words8 v} {b : Byte} (hb : b ∈ digestString v h) : isHexChar b := by
  obtain ⟨x, -, hx⟩ := List.mem_flatMap.mp hb
  obtain ⟨d, -, rfl⟩ := List.mem_map.mp hx
  exact isHexChar_ascii _

/-- What ASSEMBLE gives HEX is a digest string followed by zeros (R190, R194). -/
theorem Engine.hexLegal_of_hexBuffer {e : Engine v} {h : Words8 v} (he : e.hex = hexBuffer v h) : e.hexLegal := by
  have hget : ∀ i : Fin 128, e.hex[i] = (digestString v h)[i.val]?.getD 0x00#8 := fun i => by simp [he, hexBuffer]
  refine .inr ⟨fun i hi => ?_, fun i hi => ?_⟩
  · rw [← digestString_length v h] at hi
    rw [hget, List.getElem?_eq_getElem hi]
    exact isHexChar_of_mem_digestString (List.getElem_mem hi)
  · rw [← digestString_length v h] at hi
    rw [hget, List.getElem?_eq_none hi]
    rfl

theorem Engine.hexLegal_of_zeros {e : Engine v} (he : e.hex = Vector.replicate 128 0x00#8) : e.hexLegal :=
  .inl fun i => by simp [he]

theorem IfaceError.code_range (c : IfaceError) : 1 ≤ c.code.toNat ∧ c.code.toNat ≤ 6 := by
  cases c <;> decide

/-- The invariant holds after reset, whatever the draws (R48). -/
theorem Engine.inv_atReset (p : Params) (epoch : Nat) (work : Working v) (sched : Sched v) :
    (Engine.atReset v epoch work sched).Inv p where
  phase := by simp [Engine.atReset]
  error := by simp [Engine.errorLegal, Engine.atReset]
  hex := Engine.hexLegal_of_zeros rfl
  msgForm := Memory.nil_wf
  msgBound := by simp [Engine.atReset]
  padForm := Memory.nil_wf
  padBound := by simp [Engine.atReset]
  length := by simp [Engine.busy, Engine.atReset]
  blocks := by simp [Engine.atReset]
  round := by simp [Engine.atReset]
  sequenced := by simp [Engine.sequenced, Engine.freshRun, Engine.atReset]

/-- A run is on course after reset: there is none (R48). -/
theorem Engine.onCourse_atReset (p : Params) (epoch : Nat) (work : Working v) (sched : Sched v) :
    (Engine.atReset v epoch work sched).OnCourse p := by
  constructor <;> simp [Engine.atReset, Engine.busy]

end

/-! ## The invariant: host instructions -/

section
variable {v : Variant} {p : Params} {e : Engine v}

/-! What the invariant says in each phase of a run (R223). -/

theorem Engine.Inv.in_pad (he : e.Inv p) (hp : e.phase = 2#4) : e.h = iv v ∧ e.blk = 0#32 ∧ e.rnd = 0#8 ∧ e.nblk = 0#32 := by
  obtain ⟨-, h, -⟩ := he.sequenced
  exact h hp

theorem Engine.Inv.in_segment (he : e.Inv p) (hp : e.phase = 3#4) : e.padLen.toNat = paddedLen v e.msgLen.toNat := by
  obtain ⟨-, -, h, -⟩ := he.sequenced
  obtain ⟨-, -, -, -, hpad⟩ := h hp
  exact hpad

theorem Engine.Inv.in_expand (he : e.Inv p) (hp : e.phase = 4#4) : e.countersSet ∧ e.blk.toNat < e.nblk.toNat := by
  obtain ⟨-, -, -, h, -⟩ := he.sequenced
  exact h hp

theorem Engine.Inv.in_round (he : e.Inv p) (hp : e.phase = 5#4) :
    e.countersSet ∧ e.blk.toNat < e.nblk.toNat ∧ e.rnd.toNat < v.rounds := by
  obtain ⟨-, -, -, -, h, -⟩ := he.sequenced
  exact h hp

theorem Engine.Inv.in_update (he : e.Inv p) (hp : e.phase = 6#4) :
    e.countersSet ∧ e.blk.toNat < e.nblk.toNat ∧ e.rnd.toNat = v.rounds := by
  obtain ⟨-, -, -, -, -, h, -⟩ := he.sequenced
  exact h hp

theorem Engine.Inv.in_assemble (he : e.Inv p) (hp : e.phase = 7#4) : e.countersSet ∧ e.blk = e.nblk ∧ e.rnd.toNat = v.rounds := by
  obtain ⟨-, -, -, -, -, -, h, -⟩ := he.sequenced
  exact h hp

/-- Of an engine that keeps the invariant and is not busy, `PHASE` is IDLE or DONE (R30). -/
theorem Engine.Inv.idle_or_done (he : e.Inv p) (hb : e.busy = false) : e.phase = 0#4 ∨ e.phase = 8#4 := by
  have h8 := he.phase
  have hnot : ¬ (1 ≤ e.phase.toNat ∧ e.phase.toNat ≤ 7) := fun h => by simp [(e.busy_iff).mpr h] at hb
  rcases Nat.eq_zero_or_pos e.phase.toNat with h | h
  · exact .inl (BitVec.eq_of_toNat_eq h)
  · exact .inr (BitVec.eq_of_toNat_eq (show e.phase.toNat = 8 by omega))

theorem Engine.inv_raise (he : e.Inv p) (c : IfaceError) : (e.raise c).Inv p := by
  unfold Engine.raise
  split
  · exact he
  · exact { he with error := by simpa [Engine.errorLegal] using c.code_range }

theorem Engine.inv_clearError (he : e.Inv p) : e.clearError.Inv p :=
  { he with error := by simp [Engine.errorLegal] }

theorem Engine.inv_clear (he : e.Inv p) : e.clear.Inv p where
  phase := by simp
  error := by simp [Engine.errorLegal]
  hex := Engine.hexLegal_of_zeros rfl
  msgForm := he.msgForm
  msgBound := he.msgBound
  padForm := he.padForm
  padBound := he.padBound
  length := by simp [Engine.busy]
  blocks := by simp
  round := by simp
  sequenced := by simp [Engine.sequenced, Engine.freshRun]

theorem Engine.inv_start (he : e.Inv p) (fits : e.msgLen.toNat ≤ msgCap p) : ({ e with phase := 1#4 } : Engine v).Inv p :=
  { he with
    phase := by simp
    length := fun _ => fits
    sequenced := by simp [Engine.sequenced] }

theorem Engine.inv_setLen (he : e.Inv p) (waiting : e.busy = false) (x : Bus32) : ({ e with msgLen := x } : Engine v).Inv p := by
  refine { he with length := fun hb => ?_, sequenced := ?_ }
  · exact absurd (show e.busy = true from hb) (by simp [waiting])
  · obtain ⟨h0, -, -, -, -, -, -, h8⟩ := he.sequenced
    rcases he.idle_or_done waiting with h | h
    · simpa [Engine.sequenced, h, Engine.freshRun] using h0 h
    · simpa [Engine.sequenced, h] using h8 h

theorem Engine.inv_storeMsg (he : e.Inv p) {off : Nat} {bs : List Byte} (low : 0x1000 ≤ off)
    (high : off + bs.length ≤ 0x1000 + msgCap p) : (e.storeMsg off bs).Inv p :=
  { he with
    msgForm := Memory.writeRange_wf he.msgForm _ _
    msgBound := Memory.writeRange_bound he.msgBound (by omega) }

/-! ## The invariant: micro-operations -/

theorem Engine.inv_init (he : e.Inv p) (hp : e.phase = 1#4) : e.init.Inv p :=
  { he with
    phase := by simp
    length := fun _ => he.length (by simp [Engine.busy, hp])
    blocks := by simp
    round := by simp
    sequenced := by simp [Engine.sequenced] }

theorem Engine.inv_pad (he : e.Inv p) (hp : e.phase = 2#4) : e.pad.Inv p := by
  have hl : e.msgLen.toNat ≤ msgCap p := he.length (by simp [Engine.busy, hp])
  obtain ⟨hfit, hcap, -⟩ := paddedLen_bounds v hl
  obtain ⟨hh, hblk, hrnd, hnblk⟩ := he.in_pad hp
  exact { he with
    phase := by simp
    padForm := Memory.writeRange_wf he.padForm _ _
    padBound := Memory.writeRange_bound he.padBound (by simpa [paddedBytes_length] using hcap)
    length := fun _ => hl
    sequenced := by simpa [Engine.sequenced, hh, hblk, hrnd, hnblk] using Nat.mod_eq_of_lt hfit }

theorem Engine.inv_segment (he : e.Inv p) (hp : e.phase = 3#4) : e.segment.Inv p := by
  have hl : e.msgLen.toNat ≤ msgCap p := he.length (by simp [Engine.busy, hp])
  obtain ⟨hfit, -, hpos, hmax, -⟩ := paddedLen_bounds v hl
  have hpad := he.in_segment hp
  have hnblk : e.segment.nblk.toNat = paddedLen v e.msgLen.toNat / blockBytes v := by
    simp only [Engine.segment_nblk, hpad, BitVec.toNat_ofNat]
    exact Nat.mod_eq_of_lt (by omega)
  exact { he with
    phase := by simp
    length := fun _ => hl
    blocks := by rw [hnblk]; simpa using hmax
    sequenced := by
      have : e.segment.countersSet := ⟨hpad, hnblk⟩
      simpa [Engine.sequenced, this, -Engine.segment_nblk, hnblk, -Nat.div_pos_iff] using Nat.lt_of_succ_le hpos }

theorem Engine.inv_expand (he : e.Inv p) (hp : e.phase = 4#4) : e.expand.Inv p := by
  obtain ⟨hset, hblk⟩ := he.in_expand hp
  have hset' : e.expand.countersSet := hset
  exact { he with
    phase := by simp
    length := fun _ => he.length (by simp [Engine.busy, hp])
    round := by simp
    sequenced := by cases v <;> simp [Engine.sequenced, hset', hblk] }

theorem Engine.inv_round (he : e.Inv p) (hp : e.phase = 5#4) : e.round.Inv p := by
  obtain ⟨hset, hblk, hrnd⟩ := he.in_round hp
  have hset' : e.round.countersSet := hset
  have hnext : (e.rnd + 1#8).toNat = e.rnd.toNat + 1 := by
    have : v.rounds ≤ 80 := by cases v <;> decide
    simp
    omega
  have hlast : e.round.phase = 6#4 ∧ e.rnd.toNat + 1 = v.rounds ∨ e.round.phase = 5#4 ∧ e.rnd.toNat + 1 < v.rounds := by
    rw [Engine.round_phase]
    split <;> simp <;> omega
  exact { he with
    phase := by rcases hlast with ⟨h, -⟩ | ⟨h, -⟩ <;> rw [h] <;> decide
    length := fun _ => he.length (by simp [Engine.busy, hp])
    round := by rw [Engine.round_rnd, hnext]; omega
    sequenced := by
      rcases hlast with ⟨h, hr⟩ | ⟨h, hr⟩ <;>
        simpa [Engine.sequenced, h, -Engine.round_phase, hset', hblk, -BitVec.toNat_add, hnext] using hr }

theorem Engine.inv_update (he : e.Inv p) (hp : e.phase = 6#4) : e.update.Inv p := by
  obtain ⟨hset, hblk, hrnd⟩ := he.in_update hp
  have hset' : e.update.countersSet := hset
  have hnext : (e.blk + 1#32).toNat = e.blk.toNat + 1 := by
    have := he.blocks.2
    simp
    omega
  have hlast : e.update.phase = 4#4 ∧ (e.blk + 1#32).toNat < e.nblk.toNat ∨ e.update.phase = 7#4 ∧ e.blk + 1#32 = e.nblk := by
    rw [Engine.update_phase]
    split
    · next h => exact .inl ⟨rfl, h⟩
    · exact .inr ⟨rfl, BitVec.eq_of_toNat_eq (by omega)⟩
  exact { he with
    phase := by rcases hlast with ⟨h, -⟩ | ⟨h, -⟩ <;> rw [h] <;> decide
    length := fun _ => he.length (by simp [Engine.busy, hp])
    blocks := ⟨by rw [Engine.update_blk, hnext]; exact hblk, he.blocks.2⟩
    sequenced := by
      rcases hlast with ⟨h, hb⟩ | ⟨h, hb⟩ <;>
        simpa [Engine.sequenced, h, -Engine.update_phase, hset', hrnd, -BitVec.toNat_add] using hb }

theorem Engine.inv_assemble (he : e.Inv p) (hp : e.phase = 7#4) : e.assemble.Inv p := by
  have hl : e.msgLen.toNat ≤ msgCap p := he.length (by simp [Engine.busy, hp])
  obtain ⟨⟨hpad, hnblk⟩, hblk, hrnd⟩ := he.in_assemble hp
  obtain ⟨-, -, hpos, -, hwhole⟩ := paddedLen_bounds v hl
  exact { he with
    phase := by simp
    hex := Engine.hexLegal_of_hexBuffer rfl
    length := fun _ => hl
    sequenced := by simp [Engine.sequenced, hpad, hnblk, hblk, hrnd, hpos, hwhole] }

/-! ## The invariant: every step -/

/-- Every step keeps the invariant of an engine. -/
theorem Engine.inv_stepTo {f : Engine v} (he : e.Inv p) (h : e.StepTo p f) : f.Inv p := by
  rcases h with rfl | ⟨i, h, hcode⟩
  · exact Engine.inv_atReset p _ _ _
  have hphase {code : BitVec 4} (own : i.variant = v) (hi : encode i = .phase code) : e.phase = code := (hcode own code hi).symm
  cases h with
  | keep => exact he
  | raise c => exact Engine.inv_raise he c
  | clearError => exact Engine.inv_clearError he
  | clear => exact Engine.inv_clear he
  | start cmd waiting fits => exact Engine.inv_start he fits
  | setLen x waiting => exact Engine.inv_setLen he waiting x
  | storeMsg off x bs waiting low high => exact Engine.inv_storeMsg he low high
  | init => exact Engine.inv_init he (hphase rfl rfl)
  | pad => exact Engine.inv_pad he (hphase rfl rfl)
  | segment => exact Engine.inv_segment he (hphase rfl rfl)
  | expand => exact Engine.inv_expand he (hphase rfl rfl)
  | round => exact Engine.inv_round he (hphase rfl rfl)
  | update => exact Engine.inv_update he (hphase rfl rfl)
  | assemble => exact Engine.inv_assemble he (hphase rfl rfl)

end

/-- The invariant of the machine, for an engine named by its variant. -/
theorem State.inv_iff (s : State) : s.Inv ↔ ∀ v, (s.engine v).Inv s.par :=
  ⟨fun h v => by cases v <;> [exact h.1; exact h.2], fun h => ⟨h .e32, h .e64⟩⟩

/-- Settles O11: a step makes of each engine one of the things `StepTo` lists, and each of them keeps the invariant. -/
theorem everyStepKeepsTheInvariant : Obligations.EveryStepKeepsTheInvariant := by
  intro s t hs ht
  obtain ⟨hpar, hstep⟩ := step_stepTo ht
  rw [State.inv_iff] at hs ⊢
  intro v
  rw [hpar]
  exact Engine.inv_stepTo (hs v) (hstep v)

/-- What every step keeps, every run keeps. -/
theorem run_keeps {P : State → Prop} (hstep : ∀ s t, P s → step s = .next t → P t) {n : Nat} {s t : State} (hs : P s)
    (h : core.run n s = .next t) : P t := by
  induction n generalizing s with
  | zero =>
    obtain rfl : s = t := Host.Outcome.next.inj h
    exact hs
  | succ n ih =>
    match hr : step s with
    | .next r => exact ih (hstep s r hs hr) (run_succ n hr ▸ h)
    | .fault x => nomatch x
    | .refused x =>
      have h' : core.step s = .refused x := hr
      simp [Host.Core.run, h'] at h

/-- Settles O12: the invariant holds after every run, and it bounds the counters. -/
theorem countersStayInRange : Obligations.CountersStayInRange := by
  intro s t n v hs ht
  have he := (State.inv_iff t).mp (run_keeps everyStepKeepsTheInvariant hs ht) v
  obtain ⟨hblk, hnblk⟩ := he.blocks
  refine ⟨by omega, hnblk, he.round, fun hb => ?_⟩
  have := he.length hb
  have := msgCap_le t.par
  omega

/-- Settles O10: both engines have the reset values, which meet the invariants whatever the unspecified elements are. -/
theorem resetSatisfiesTheInvariant : Obligations.ResetSatisfiesTheInvariant := fun p =>
  ⟨⟨Engine.inv_atReset p _ _ _, Engine.inv_atReset p _ _ _⟩, Engine.onCourse_atReset p _ _ _, Engine.onCourse_atReset p _ _ _⟩

/-! ## Who writes what -/

/-- An instruction whose code is no phase code is no micro-operation (R80). -/
theorem ne_decode_phase {i : Instr} (host : ∀ code, encode i ≠ .phase code) (u : Variant) (code : BitVec 4) :
    i ≠ decode u (.phase code) := fun hi => host code (hi ▸ encode_decodePhase u code)

/-- Settles O54: the instruction writes what `ChangedBy` lists, and every operation of that list leaves the other elements alone. -/
theorem onlyTheListedInstructionsWriteEachElement : Obligations.OnlyTheListedInstructionsWriteEachElement := by
  intro i s u
  obtain ⟨t, ht, -, heff⟩ := exec_changedBy i s
  refine ⟨t, ht, ?_⟩
  have h := heff u
  generalize t.engine u = f at h
  cases h with
  | keep => simp
  | raise c own host =>
    by_cases herr : (s.engine u).err = true
    · simp [Engine.raise_of_err herr]
    · simp [own, ne_decode_phase host, herr]
  | clearError cmd | clear cmd =>
    have host : ∀ code, encode i ≠ .phase code := by rcases cmd with rfl | rfl <;> simp [encode]
    rcases cmd with rfl | rfl <;> simp [ne_decode_phase host]
  | start cmd waiting fits => simp [cmd, waiting, fits]
  | setLen x waiting => simp [waiting]
  | storeMsg off x bs waiting low high nonempty write =>
    have inside : off.toNat < 0x1000 + msgCap s.par := by
      have := List.length_pos_iff.mpr nonempty
      omega
    have listed : ∃ off x, 0x1000 ≤ off.toNat ∧ off.toNat < 0x1000 + msgCap s.par ∧
        (i = .wr8 u off x ∨ (off.toNat % 4 = 0 ∧ i = .wr32 u off x)) := ⟨off, x, low, inside, write⟩
    simpa [waiting] using fun _ => listed
  | init | pad | segment | expand | round | update | assemble => simp

/-! ## The unspecified elements: host instructions do not look at them -/

section
variable {v : Variant}

/-- An engine with other working registers, schedule and PADBUF (R22, R23, R44). -/
def Engine.withScratch (e : Engine v) (w : Working v) (x : Sched v) (b : Memory) : Engine v :=
  { e with work := w, sched := x, padBuf := b }

section
variable (p : Params) (e : Engine v) (w : Working v) (x : Sched v) (b : Memory)

@[simp] theorem Engine.raise_withScratch (c : IfaceError) : (e.withScratch w x b).raise c = (e.raise c).withScratch w x b := by
  by_cases h : e.err = true <;> simp [Engine.raise, Engine.withScratch, h]

@[simp] theorem Engine.clear_withScratch : (e.withScratch w x b).clear = e.clear.withScratch w x b := rfl

@[simp] theorem Engine.clearError_withScratch : (e.withScratch w x b).clearError = e.clearError.withScratch w x b := rfl

@[simp] theorem Engine.storeMsg_withScratch (off : Nat) (bs : List Byte) :
    (e.withScratch w x b).storeMsg off bs = (e.storeMsg off bs).withScratch w x b := rfl

@[simp] theorem Engine.busy_withScratch : (e.withScratch w x b).busy = e.busy := rfl

@[simp] theorem Engine.msgLen_withScratch : (e.withScratch w x b).msgLen = e.msgLen := rfl

@[simp] theorem Engine.regRead_withScratch (off : Nat) : (e.withScratch w x b).regRead p off = e.regRead p off := rfl

@[simp] theorem Engine.byteAt_withScratch (o : Nat) : (e.withScratch w x b).byteAt p o = e.byteAt p o := rfl

@[simp] theorem Engine.start_withScratch : (e.withScratch w x b).start p = (e.start p).withScratch w x b := by
  simp only [Engine.start, Engine.busy_withScratch, Engine.msgLen_withScratch, Engine.raise_withScratch]
  split_ifs <;> rfl

@[simp] theorem Engine.execCmd_withScratch (word : Bus32) :
    (e.withScratch w x b).execCmd p word = (e.execCmd p word).withScratch w x b := by
  simp only [Engine.execCmd, Engine.raise_withScratch, Engine.start_withScratch, Engine.clear_withScratch, Engine.clearError_withScratch]
  split_ifs <;> rfl

@[simp] theorem Engine.rd32_withScratch (off : Bus32) :
    (e.withScratch w x b).rd32 p off = ((e.rd32 p off).1.withScratch w x b, (e.rd32 p off).2) := by
  simp only [Engine.rd32, Engine.raise_withScratch, Engine.regRead_withScratch, Engine.byteAt_withScratch]
  split_ifs <;> rfl

@[simp] theorem Engine.rd8_withScratch (off : Bus32) :
    (e.withScratch w x b).rd8 p off = ((e.rd8 p off).1.withScratch w x b, (e.rd8 p off).2) := by
  simp only [Engine.rd8, Engine.raise_withScratch, Engine.byteAt_withScratch]
  split_ifs <;> rfl

@[simp] theorem Engine.wr32_withScratch (off wdata : Bus32) :
    (e.withScratch w x b).wr32 p off wdata = (e.wr32 p off wdata).withScratch w x b := by
  simp only [Engine.wr32, Engine.busy_withScratch, Engine.raise_withScratch, Engine.execCmd_withScratch, Engine.storeMsg_withScratch]
  split_ifs <;> rfl

@[simp] theorem Engine.wr8_withScratch (off wdata : Bus32) :
    (e.withScratch w x b).wr8 p off wdata = (e.wr8 p off wdata).withScratch w x b := by
  simp only [Engine.wr8, Engine.busy_withScratch, Engine.raise_withScratch, Engine.storeMsg_withScratch]
  split
  case h_2 => split_ifs <;> rfl
  all_goals rfl

end

/-- A host instruction neither looks at the scratch elements nor touches them. -/
theorem effect_withScratch (p : Params) (i : Instr) (host : ∀ code, encode i ≠ .phase code) (e : Engine i.variant)
    (w : Working i.variant) (x : Sched i.variant) (b : Memory) : effect p i (e.withScratch w x b) = (effect p i e).withScratch w x b := by
  cases i with
  | init | pad | segment | expand | round | update | assemble => exact absurd rfl (host _)
  | nop | idle | done | phaseRsv9 | phaseRsv10 | phaseRsv11 | phaseRsv12 | phaseRsv13 | phaseRsv14 | phaseRsv15 => rfl
  | _ => simp [effect]

/-- No answer shows the scratch elements. -/
theorem answer_withScratch (p : Params) (i : Instr) (e : Engine i.variant) (w : Working i.variant) (x : Sched i.variant) (b : Memory) :
    answer p i (e.withScratch w x b) = answer p i e := by
  cases i with
  | rd8 | rd32 => simp [answer]
  | _ => rfl

/-! ## The unspecified elements: what a run has computed agrees -/

/-- Two engines that differ in the scratch elements only, and there in nothing that the run of the first still reads: the bytes PAD wrote,
until the last EXPAND; the schedule and the working registers, from EXPAND to UPDATE. -/
structure Engine.Agree (e f : Engine v) : Prop where
  same : e.sameButScratch f
  padded : 3 ≤ e.phase.toNat → e.phase.toNat ≤ 6 → ∀ i < e.padLen.toNat, e.padByte i = f.padByte i
  expanded : e.phase = 5#4 ∨ e.phase = 6#4 → e.work = f.work ∧ e.sched = f.sched

section
variable {p : Params} {e f : Engine v}

theorem Engine.sameButScratch.exists_withScratch (h : e.sameButScratch f) : ∃ w x b, f = e.withScratch w x b := ⟨_, _, _, h⟩

/-- Where no block data is in flight nothing more is needed. -/
theorem Engine.agree_of_beforePad (h : e.sameButScratch f) (he : e.beforePad) : e.Agree f := by
  refine ⟨h, fun h3 h6 => ?_, fun h56 => ?_⟩
  · rcases he with hp | hp
    · omega
    · simp [hp] at h6
  · rcases he with hp | hp
    · rcases h56 with h | h <;> simp [h] at hp
    · simp [hp] at h56

theorem Engine.Agree.phase_eq (h : e.Agree f) : f.phase = e.phase := (congrArg Engine.phase h.same :)

/-- A host instruction keeps the scratch elements; and of a run it keeps where it stands, if it does not leave it or begin a new one. -/
theorem Engine.ChangedBy.host_keeps {i : Instr} {e' : Engine v} (h : e.ChangedBy p i e') (host : ∀ code, encode i ≠ .phase code) :
    e'.work = e.work ∧ e'.sched = e.sched ∧ e'.padBuf = e.padBuf ∧ e'.epoch = e.epoch ∧
      (e'.phase.toNat ≤ 1 ∨ e'.phase = e.phase ∧ e'.padLen = e.padLen) := by
  cases h with
  | init | pad | segment | expand | round | update | assemble => exact absurd rfl (host _)
  | _ => simp

/-- Engines that agree still do after the same host instruction. -/
theorem Engine.Agree.host {i : Instr} {e f : Engine i.variant} (h : e.Agree f) (host : ∀ code, encode i ≠ .phase code) :
    (effect p i e).Agree (effect p i f) := by
  obtain ⟨hwork, hsched, hbuf, hepoch, hphase⟩ := (changedBy_effect p i e).host_keeps host
  obtain ⟨w, x, b, rfl⟩ := h.same.exists_withScratch
  rw [effect_withScratch p i host]
  rcases hphase with hp | ⟨hp, hlen⟩
  · exact Engine.agree_of_beforePad rfl (.inl (by omega))
  · refine ⟨rfl, fun h3 h6 j hj => ?_, fun h56 => ?_⟩
    · rw [hp] at h3 h6
      rw [hlen] at hj
      simpa [Engine.padByte, Engine.withScratch, hbuf, hepoch] using h.padded h3 h6 j hj
    · rw [hp] at h56
      simpa [Engine.withScratch, hwork, hsched] using h.expanded h56

theorem Engine.Agree.init (h : e.Agree f) : e.init.Agree f.init := by
  obtain ⟨w, x, b, rfl⟩ := h.same.exists_withScratch
  exact Engine.agree_of_beforePad rfl (.inl (by simp))

theorem Engine.Agree.pad (h : e.Agree f) : e.pad.Agree f.pad := by
  obtain ⟨w, x, b, rfl⟩ := h.same.exists_withScratch
  refine ⟨rfl, fun _ _ i hi => ?_, by simp⟩
  have hi' : i < paddedLen v e.msgLen.toNat := lt_of_lt_of_le hi (by simpa using Nat.mod_le _ _)
  rw [Engine.padByte_pad_inside e hi', Engine.padByte_pad_inside (e.withScratch w x b) hi']
  rfl

theorem Engine.Agree.segment (h : e.Agree f) (hp : e.phase = 3#4) : e.segment.Agree f.segment := by
  obtain ⟨w, x, b, rfl⟩ := h.same.exists_withScratch
  exact ⟨rfl, fun _ _ => h.padded (by simp [hp]) (by simp [hp]), by simp⟩

/-- The bytes of a block of the message lie below PADLEN (R147, R148). -/
theorem Engine.countersSet.block_lt_padLen (h : e.countersSet) (hl : e.msgLen.toNat ≤ msgCap p) {j t i : Nat} (hj : j < e.nblk.toNat)
    (ht : t < 16) (hi : i < wordBytes v) : j * blockBytes v + t * wordBytes v + i < e.padLen.toNat := by
  obtain ⟨hpad, hnblk⟩ := h
  obtain ⟨-, -, -, -, hwhole⟩ := paddedLen_bounds v hl
  have hword : t * wordBytes v + i < blockBytes v := by
    have hwords : 16 * wordBytes v = blockBytes v := by cases v <;> rfl
    have := Nat.mul_le_mul_right (wordBytes v) (Nat.succ_le_of_lt ht)
    rw [Nat.succ_mul] at this
    omega
  have hblock : (j + 1) * blockBytes v ≤ e.nblk.toNat * blockBytes v := Nat.mul_le_mul_right _ hj
  rw [Nat.succ_mul] at hblock
  rw [hpad, ← hwhole, ← hnblk]
  omega

theorem Engine.Agree.expand (h : e.Agree f) (he : e.Inv p) (hp : e.phase = 4#4) : e.expand.Agree f.expand := by
  have hl : e.msgLen.toNat ≤ msgCap p := he.length (by simp [Engine.busy, hp])
  obtain ⟨hset, hblk⟩ := he.in_expand hp
  have hpadded := h.padded (by simp [hp]) (by simp [hp])
  obtain ⟨w, x, b, rfl⟩ := h.same.exists_withScratch
  have hword (t : Fin 16) : e.blockWord e.blk.toNat t.val = (e.withScratch w x b).blockWord e.blk.toNat t.val := by
    unfold Engine.blockWord
    congr 1
    exact List.map_congr_left fun i hi => hpadded _ (hset.block_lt_padLen hl hblk t.isLt (List.mem_range.mp hi))
  exact ⟨rfl, fun _ _ => hpadded, fun _ => ⟨rfl, by simp only [Engine.expand_sched, hword]; rfl⟩⟩

/-- From EXPAND to UPDATE, engines that agree differ in PADBUF only. -/
theorem Engine.Agree.exists_padBuf (h : e.Agree f) (hp : e.phase = 5#4 ∨ e.phase = 6#4) : ∃ b, f = { e with padBuf := b } := by
  obtain ⟨hwork, hsched⟩ := h.expanded hp
  obtain ⟨w, x, b, rfl⟩ := h.same.exists_withScratch
  obtain ⟨rfl, rfl⟩ : e.work = w ∧ e.sched = x := ⟨hwork, hsched⟩
  exact ⟨b, rfl⟩

theorem Engine.Agree.round (h : e.Agree f) (hp : e.phase = 5#4) : e.round.Agree f.round := by
  have hpadded := h.padded (by simp [hp]) (by simp [hp])
  obtain ⟨b, rfl⟩ := h.exists_padBuf (.inl hp)
  exact ⟨rfl, fun _ _ => hpadded, fun _ => ⟨rfl, rfl⟩⟩

theorem Engine.Agree.update (h : e.Agree f) (hp : e.phase = 6#4) : e.update.Agree f.update := by
  have hpadded := h.padded (by simp [hp]) (by simp [hp])
  obtain ⟨b, rfl⟩ := h.exists_padBuf (.inr hp)
  exact ⟨rfl, fun _ _ => hpadded, fun _ => ⟨rfl, rfl⟩⟩

theorem Engine.Agree.assemble (h : e.Agree f) : e.assemble.Agree f.assemble := by
  obtain ⟨w, x, b, rfl⟩ := h.same.exists_withScratch
  exact Engine.agree_of_beforePad rfl (.inr rfl)

theorem Engine.Agree.resetEvent (h : e.Agree f) : e.resetEvent.Agree f.resetEvent := by
  obtain ⟨w, x, b, rfl⟩ := h.same.exists_withScratch
  exact Engine.agree_of_beforePad rfl (.inl (by simp))

end

end

/-- Engines that agree still do after the same instruction, if a micro-operation is that of their `PHASE`. -/
theorem Engine.Agree.effect {p : Params} {i : Instr} {e f : Engine i.variant} (h : e.Agree f) (he : e.Inv p)
    (hcode : ∀ code, encode i = .phase code → code = e.phase) : (effect p i e).Agree (effect p i f) := by
  have hphase {code : BitVec 4} (hi : encode i = .phase code) : e.phase = code := (hcode code hi).symm
  cases i with
  | init => exact h.init
  | pad => exact h.pad
  | segment => exact h.segment (hphase rfl)
  | expand => exact h.expand he (hphase rfl)
  | round => exact h.round (hphase rfl)
  | update => exact h.update (hphase rfl)
  | assemble => exact h.assemble
  | idle | done | phaseRsv9 | phaseRsv10 | phaseRsv11 | phaseRsv12 | phaseRsv13 | phaseRsv14 | phaseRsv15 => exact h
  | _ => exact h.host (by simp [encode])

/-- Engines that agree answer a read alike. -/
theorem Engine.Agree.answer {p : Params} {i : Instr} {e f : Engine i.variant} (h : e.Agree f) : answer p i f = answer p i e := by
  obtain ⟨w, x, b, rfl⟩ := h.same.exists_withScratch
  exact answer_withScratch p i e w x b

/-! ## The unspecified elements: two runs -/

/-- Two states whose engines agree and that are otherwise alike. -/
structure State.Agree (s t : State) : Prop where
  par : t.par = s.par
  rdata : ∀ v, t.rdata v = s.rdata v
  inbox : t.inbox = s.inbox
  picks : t.picks = s.picks
  engines : ∀ v, (s.engine v).Agree (t.engine v)

section
variable {s t : State}

theorem State.Agree.sameButScratch (h : s.Agree t) : s.sameButScratch t := by
  refine ⟨?_, (h.engines .e32).same, (h.engines .e64).same⟩
  obtain ⟨hpar, hrdata, hinbox, hpicks, -⟩ := h
  have h32 := hrdata .e32
  have h64 := hrdata .e64
  cases t
  simp_all [State.rdata]

theorem State.agree_of_sameButScratch (h : s.sameButScratch t) (h32 : s.e32.beforePad) (h64 : s.e64.beforePad) : s.Agree t := by
  obtain ⟨hrest, hs32, hs64⟩ := h
  refine ⟨(congrArg State.par hrest :), fun v => ?_, (congrArg State.inbox hrest :), (congrArg State.picks hrest :), fun v => ?_⟩
  · cases v
    · exact (congrArg State.rdata32 hrest :)
    · exact (congrArg State.rdata64 hrest :)
  · cases v
    · exact Engine.agree_of_beforePad hs32 h32
    · exact Engine.agree_of_beforePad hs64 h64

theorem State.Agree.setInbox (h : s.Agree t) (xs : List Stimulus) : { s with inbox := xs }.Agree { t with inbox := xs } :=
  ⟨h.par, fun v => by cases v <;> [exact h.rdata .e32; exact h.rdata .e64], rfl, h.picks,
    fun v => by simpa only [State.engine_inbox] using h.engines v⟩

theorem State.Agree.setPicks (h : s.Agree t) (n : Nat) : { s with picks := n }.Agree { t with picks := n } :=
  ⟨h.par, fun v => by cases v <;> [exact h.rdata .e32; exact h.rdata .e64], h.inbox, rfl,
    fun v => by simpa only [State.engine_picks] using h.engines v⟩

theorem State.Agree.setEngine (h : s.Agree t) {v : Variant} {e f : Engine v} (hef : e.Agree f) :
    (s.setEngine v e).Agree (t.setEngine v f) := by
  refine ⟨by simpa using h.par, by simpa using h.rdata, by simpa using h.inbox, by simpa using h.picks, fun u => ?_⟩
  by_cases hu : u = v
  · subst hu
    simpa using hef
  · simpa [State.engine_setEngine_ne _ hu] using h.engines u

theorem State.Agree.recordAnswer (h : s.Agree t) (v : Variant) (x : Option Bus32) : (s.recordAnswer v x).Agree (t.recordAnswer v x) := by
  refine ⟨by simpa using h.par, fun u => ?_, by simpa using h.inbox, by simpa using h.picks, by simpa using h.engines⟩
  by_cases hu : u = v
  · subst hu
    cases x with
    | none => exact h.rdata u
    | some x => simp [State.recordAnswer]
  · simpa [State.rdata_recordAnswer_ne _ _ _ hu] using h.rdata u

/-- The same instruction in two states that agree. -/
theorem exec_agree (h : s.Agree t) (hs : s.Inv) {i : Instr}
    (hcode : ∀ code, encode i = .phase code → code = (s.engine i.variant).phase) :
    ∃ s' t', exec i s = .next s' ∧ exec i t = .next t' ∧ s'.Agree t' := by
  refine ⟨_, _, exec_eq i s, exec_eq i t, ?_⟩
  have he := h.engines i.variant
  rw [h.par, he.answer]
  exact (h.setEngine (he.effect (s.inv_iff.mp hs _) hcode)).recordAnswer _ _

theorem State.Agree.idleEngine (h : s.Agree t) : idleEngine t = idleEngine s := by
  have h32 : t.e32.busy = s.e32.busy := Engine.busy_congr (h.engines .e32).phase_eq
  have h64 : t.e64.busy = s.e64.busy := Engine.busy_congr (h.engines .e64).phase_eq
  simp only [Machine.idleEngine, h32, h64, h.picks]

/-- A step of two states that agree. -/
theorem step_agree (h : s.Agree t) (hs : s.Inv) : ∃ s' t', step s = .next s' ∧ step t = .next t' ∧ s'.Agree t' := by
  have hin := h.inbox
  match hi : s.inbox with
  | [] =>
    rw [hi] at hin
    rw [step_nil hi, step_nil hin, h.idleEngine, (h.engines _).phase_eq, h.picks]
    refine exec_agree (h.setPicks (s.picks + 1)) hs ?_
    simpa only [State.engine_picks] using code_of_decodePhase s (idleEngine s)
  | .engine v :: rest =>
    rw [hi] at hin
    rw [step_engine hi, step_engine hin, (h.engines v).phase_eq]
    refine exec_agree (h.setInbox rest) hs ?_
    simpa only [State.engine_inbox] using code_of_decodePhase s v
  | .bus v access :: rest =>
    rw [hi] at hin
    rw [step_bus hi, step_bus hin]
    exact exec_agree (h.setInbox rest) hs fun code hc => absurd hc (encode_decode_access_ne_phase v access code)
  | .reset v :: rest =>
    rw [hi] at hin
    exact ⟨_, _, step_reset hi, step_reset hin, (h.setInbox rest).setEngine (h.engines v).resetEvent⟩

/-- A run of two states that agree. -/
theorem run_agree (h : s.Agree t) (hs : s.Inv) (n : Nat) :
    ∃ s' t', core.run n s = .next s' ∧ core.run n t = .next t' ∧ s'.Agree t' := by
  induction n generalizing s t with
  | zero => exact ⟨s, t, rfl, rfl, h⟩
  | succ n ih =>
    obtain ⟨s', t', hss, htt, h'⟩ := step_agree h hs
    rw [run_succ n hss, run_succ n htt]
    exact ih h' (everyStepKeepsTheInvariant s s' hs hss)

end

/-- Settles O56: with no block data in flight the two states agree, every step keeps that, and states that agree differ in the unspecified
elements only. -/
theorem unspecifiedElementsAreNeverObserved : Obligations.UnspecifiedElementsAreNeverObserved := by
  intro s t n hs hsame h32 h64
  obtain ⟨s', t', hss, htt, h⟩ := run_agree (State.agree_of_sameButScratch hsame h32 h64) hs n
  exact ⟨s', t', hss, htt, h.sameButScratch⟩

/-! ## Reads and writes of CONTROL -/

section
variable (v : Variant) (s : State)

/-- An aligned read in CONTROL answers the register's value and changes nothing else (R212). -/
theorem exec_rd32_control {off : Bus32} (hc : off.toNat < 0x100) (ha : off.toNat % 4 = 0) :
    exec (.rd32 v off) s = .next (s.setRdata v ((s.engine v).regRead s.par off.toNat)) := by
  have h : (s.engine v).rd32 s.par off = (s.engine v, (s.engine v).regRead s.par off.toNat) := by
    simp [Engine.rd32, aligned, ha, (region_control_iff s.par _).mpr hc]
  simp [exec, execRd32, State.read, h]

/-- Register `j` of the H window, read (R40). -/
theorem exec_rd32_hWindow {off j : Nat} (hoff : off = 0x040 + 4 * j) (hj : j < 16) :
    exec (.rd32 v (BitVec.ofNat 32 off)) s = .next (s.setRdata v (hWindow v (s.engine v).h j)) := by
  have ho : (BitVec.ofNat 32 off).toNat = off := by
    rw [BitVec.toNat_ofNat]
    exact Nat.mod_eq_of_lt (by omega)
  have hreg : (s.engine v).regRead s.par off = hWindow v (s.engine v).h j := by
    unfold Engine.regRead
    repeat rw [if_neg (by omega)]
    rw [if_pos (by omega), show (off - 0x040) / 4 = j by omega]
  rw [exec_rd32_control v s (by omega) (by omega), ho, hreg]

/-- The command that a word decodes to does what `ExecCmd` does (R82, R83, R217). -/
theorem exec_decodeCommand (word : Bus32) :
    exec (decodeCommand v word) s = .next (s.modify v (Engine.execCmd s.par · word)) := by
  have hbad (h : commandRsv word ≠ 0#28 ∨ 4 ≤ (commandOp word).toNat) :
      Host.Outcome.next (s.modify v (Engine.raise · .badCmd)) =
        (.next (s.modify v (Engine.execCmd s.par · word)) : Host.Outcome State Fault Refusal) := by
    simp only [Engine.execCmd, if_pos h]
  simp only [decodeCommand]
  split_ifs with hrsv h0 h1 h2 h3 h8
  · exact hbad (.inl (by simpa using hrsv))
  all_goals have hzero : commandRsv word = 0#28 := by simpa using hrsv
  · simp [exec, execNop, State.modify, Engine.execCmd, hzero, h0]
  · simp [exec, execStart, State.modify, Engine.execCmd, hzero, h1]
  · simp [exec, execClear, State.modify, Engine.execCmd, hzero, h2]
  · simp [exec, execClrErr, State.modify, Engine.execCmd, hzero, h3]
  · refine hbad (.inr ?_)
    simp only [BitVec.toNat_eq, BitVec.toNat_ofNat] at h0 h1 h2 h3
    omega
  · exact hbad (.inr (by omega))

theorem exec_wr32_cmd (word : Bus32) : exec (.wr32 v 0x004#32 word) s = .next (s.modify v (Engine.execCmd s.par · word)) := by
  have hr : region s.par 0x004 = .control := (region_control_iff _ _).mpr (by decide)
  simp [exec, execWr32, State.modify, Engine.wr32, aligned, hr]

end

/-- Settles O7: both sides are `ExecCmd` of the word; CMD is a register that reads 0. -/
theorem writeToCmdExecutesTheCommandWord : Obligations.WriteToCmdExecutesTheCommandWord := by
  intro v word s
  exact ⟨(exec_wr32_cmd v s word).trans (exec_decodeCommand v s word).symm, exec_rd32_control v s (by decide) (by decide)⟩

section
variable {v : Variant} (e : Engine v)

/-- STATUS as a number: its fields at their bit positions (R35). -/
theorem Engine.status_toNat :
    e.status.toNat = e.errCode.toNat * 256 + e.phase.toNat * 16 + e.err.toNat * 4 + e.isDone.toNat * 2 + e.busy.toNat := by
  have h : e.status.toNat = (0#20 ++ e.errCode ++ e.phase ++ 0#1 ++ BitVec.ofBool e.err ++ BitVec.ofBool e.isDone ++
    BitVec.ofBool e.busy).toNat := rfl
  rw [h]
  simp only [toNat_append_eq, BitVec.toNat_ofNat, BitVec.toNat_ofBool]
  ring

/-- PROGRESS as a number: BLK[23:0] above RND (R38). -/
theorem Engine.progress_toNat : e.progress.toNat = e.blk.toNat % 2 ^ 24 * 256 + e.rnd.toNat := by
  have h : e.progress.toNat = (e.blk.extractLsb' 0 24 ++ e.rnd).toNat := rfl
  rw [h, toNat_append_eq, BitVec.extractLsb'_toNat, Nat.shiftRight_zero, show 2 ^ 8 = 256 from rfl]

end

/-- Settles O9: the reset values, field by field; and the engine waits in IDLE. -/
theorem resetLeavesTheListedValues : Obligations.ResetLeavesTheListedValues := by
  intro p v s e
  have he : e = _ := State.engine_resetWith p v
  have hstatus : e.status = 0x00000000#32 := by
    apply BitVec.eq_of_toNat_eq
    simp [Engine.status_toNat, he, Engine.atReset, Engine.isDone, Engine.busy]
  rw [he] at hstatus ⊢
  exact ⟨rfl, rfl, rfl, rfl, rfl, hstatus, rfl, rfl, rfl, rfl, rfl, rfl, fun i => by simp [Engine.atReset], rfl, rfl⟩

/-- Settles O20: the answer is STATUS, and its bits are found in it by division. -/
theorem statusReadsItsFields : Obligations.StatusReadsItsFields := by
  intro v s
  refine ⟨(s.engine v).status, exec_rd32_control v s (by decide) (by decide), ?_⟩
  have hnum := (s.engine v).status_toNat
  have hbusy := (s.engine v).busy.toNat_le
  have hdone := (s.engine v).isDone.toNat_le
  have herr := (s.engine v).err.toNat_le
  have hphase := (s.engine v).phase.isLt
  have hcode := (s.engine v).errCode.isLt
  have hbit (i : Nat) : (s.engine v).status.getLsbD i = decide ((s.engine v).status.toNat / 2 ^ i % 2 = 1) :=
    Nat.testBit_eq_decide_div_mod_eq
  refine ⟨?_, ?_, ?_, ?_, ?_, ?_, ?_⟩
  · rw [← Engine.busy_iff, hbit, decide_eq_true_eq, ← Bool.toNat_eq_one]
    omega
  · have : (s.engine v).phase.toNat = 8 ↔ (s.engine v).isDone.toNat = 1 := by
      simp [Engine.isDone, BitVec.toNat_eq]
    rw [this, hbit, decide_eq_true_eq]
    omega
  · rw [Bool.eq_iff_iff, hbit, decide_eq_true_eq, ← Bool.toNat_eq_one]
    omega
  · rw [hbit, decide_eq_false_iff_not]
    omega
  all_goals
    apply BitVec.eq_of_toNat_eq
    rw [BitVec.extractLsb'_toNat, Nat.shiftRight_eq_div_pow]
  · omega
  · omega
  · rw [BitVec.toNat_ofNat]
    omega

/-- Settles O21: the answer is the register's value, `RegRead` at the offset. -/
theorem controlRegistersReadAsListed : Obligations.ControlRegistersReadAsListed := by
  intro v s off hc ha
  refine ⟨_, exec_rd32_control v s hc ha, fun h => ?_, fun h => ?_, fun h => ?_, fun h => ?_, fun h => ?_, fun h => ?_, fun h => ?_⟩
  · rw [h]
    cases v <;> rfl
  · simp [Engine.regRead, h]
  · simp [Engine.regRead, h]
  · simp [Engine.regRead, h]
  · simp [Engine.regRead, h, Engine.progress_toNat]
  · have := msgCap_le s.par
    simp only [Engine.regRead, h, capRegister]
    exact Nat.mod_eq_of_lt (by omega)
  · unfold Engine.regRead
    repeat rw [if_neg (by omega)]

/-- For Engine-64 the even registers of the window are the high halves (R40, R55). -/
theorem hWindow_e64_high (h : Words8 .e64) (k : Fin 8) : hWindow .e64 h (2 * k.val) = BitVec.ofNat 32 (h[k].toNat / 2 ^ 32) := by
  apply BitVec.eq_of_toNat_eq
  simp [hWindow, BitVec.extractLsb'_toNat, Nat.shiftRight_eq_div_pow]

/-- For Engine-64 the odd registers of the window are the low halves (R40, R55). -/
theorem hWindow_e64_low (h : Words8 .e64) (k : Fin 8) : hWindow .e64 h (2 * k.val + 1) = BitVec.ofNat 32 (h[k].toNat % 2 ^ 32) := by
  have hk : (2 * k.val + 1) / 2 = k.val := by omega
  apply BitVec.eq_of_toNat_eq
  simp [hWindow, hk, BitVec.extractLsb'_toNat]

/-- Settles O22: the offsets are those of registers `k` and `k + 8` of the window for Engine-32, and `2k` and `2k + 1` for Engine-64. -/
theorem hWindowReadsTheState : Obligations.HWindowReadsTheState := by
  refine ⟨fun s k => ⟨?_, ?_⟩, fun s k => ⟨?_, ?_⟩⟩
  · rw [exec_rd32_hWindow .e32 s (j := k.val) rfl (by omega)]
    simp [hWindow, State.engine]
  · rw [exec_rd32_hWindow .e32 s (j := k.val + 8) (by omega) (by omega)]
    simp [hWindow]
  · rw [exec_rd32_hWindow .e64 s (j := 2 * k.val) (by omega) (by omega), hWindow_e64_high]
    rfl
  · rw [exec_rd32_hWindow .e64 s (j := 2 * k.val + 1) (by omega) (by omega), hWindow_e64_low]
    rfl

/-- Settles O27: the offset is aligned, and of the checks of R214 only the one for a busy engine reaches it. -/
theorem msgLenStoresAnyValue : Obligations.MsgLenStoresAnyValue := by
  intro v s x hb
  simp [exec, execWr32, State.modify, Engine.wr32, aligned, hb]

/-- Settles O31: such an offset passes every check of R214 or R215 and names nothing that is stored. -/
theorem writesElsewhereAreIgnored : Obligations.WritesElsewhereAreIgnored := by
  intro v s off x
  have hmsg (hout : off.toNat < 0x1000 ∨ 0x1000 + msgCap s.par ≤ off.toNat) : region s.par off.toNat ≠ .msgwin := by
    rw [ne_eq, region_msgwin_iff]
    omega
  refine ⟨fun ha hcmd hlen hout => ?_, fun hlow hout => ?_⟩
  · have hcmd' : off ≠ 0x004#32 := fun h => hcmd (congrArg BitVec.toNat h)
    have hlen' : off ≠ 0x00C#32 := fun h => hlen (congrArg BitVec.toNat h)
    simp [exec, execWr32, State.modify, Engine.wr32, aligned, ha, hmsg hout, hcmd', hlen']
  · have hcontrol : region s.par off.toNat ≠ .control := by
      rw [ne_eq, region_control_iff]
      omega
    have hkeep : (s.engine v).wr8 s.par off x = s.engine v := by
      unfold Engine.wr8
      split
      · next h => exact absurd h hcontrol
      · next h => exact absurd h (hmsg hout)
      all_goals rfl
    simp [exec, execWr8, State.modify, hkeep]

end Sys2Proof.Machine

/-! # The memory's obligations (20_memory.md)

The regions of a window, the reads and writes of its bytes one transaction at a time and by lanes, the lockout of a busy engine, and the
independence of the two engines. -/

namespace Sys2Proof.Machine

/-! ## Regions (R51) -/

section
variable (p : Params) (off : Nat)

theorem region_hexwin_iff : region p off = .hexwin ↔ 0x100 ≤ off ∧ off < 0x180 := by
  unfold region; split_ifs <;> simp <;> omega

theorem region_reserved_iff : region p off = .reserved ↔ 0x180 ≤ off ∧ off < 0x1000 := by
  unfold region; split_ifs <;> simp <;> omega

theorem region_unmapped_iff : region p off = .unmapped ↔ 0x1000 + msgCap p ≤ off := by
  unfold region; split_ifs <;> simp <;> omega

end

/-- Settles O53: each region is the range of offsets that R51 gives it. -/
theorem regionsOfAWindow : Obligations.RegionsOfAWindow := by
  intro p off
  rw [region_control_iff, region_hexwin_iff, region_reserved_iff, region_msgwin_iff, region_unmapped_iff]
  omega

/-! ## Byte lanes (R53) -/

/-- An offset inside the window's 32-bit range does not wrap when a small number is added. -/
theorem toNat_offset_add {off : Bus32} {i : Nat} (h : off.toNat + i < 2 ^ 32) : (off + BitVec.ofNat 32 i).toNat = off.toNat + i := by
  rw [BitVec.toNat_add, BitVec.toNat_ofNat, Nat.mod_eq_of_lt (a := i) (by omega), Nat.mod_eq_of_lt h]

/-- Shifting the bus data right by whole lanes brings lane `i` to lane 0. -/
theorem lane_ushiftRight (x : Bus32) (i : Nat) : lane (x >>> (8 * i)) 0 = lane x i := by
  apply BitVec.eq_of_toNat_eq
  simp [lane, BitVec.extractLsb'_toNat]

/-! ## Reads of the byte regions (R212, R213) -/

section
variable (v : Variant) (s : State) {off : Bus32}

/-- An aligned 4-byte read above CONTROL answers its four bytes in lanes and changes nothing else. -/
theorem exec_rd32_bytes (hc : 0x100 ≤ off.toNat) (ha : off.toNat % 4 = 0) :
    exec (.rd32 v off) s = .next (s.setRdata v (ofLanes ((s.engine v).byteAt s.par off.toNat) ((s.engine v).byteAt s.par (off.toNat + 1))
      ((s.engine v).byteAt s.par (off.toNat + 2)) ((s.engine v).byteAt s.par (off.toNat + 3)))) := by
  have hr : region s.par off.toNat ≠ .control := by
    rw [ne_eq, region_control_iff]
    omega
  simp [exec, execRd32, State.read, Engine.rd32, aligned, ha, hr]

/-- A misaligned 4-byte read answers 0 and changes only the error record. -/
theorem exec_rd32_misaligned (ha : off.toNat % 4 ≠ 0) :
    exec (.rd32 v off) s = .next ((s.setEngine v ((s.engine v).raise .misaligned)).setRdata v 0#32) := by
  rcases (s.engine v).rd32_cases s.par off with ⟨h, -⟩ | ⟨-, h⟩
  · exact absurd h ha
  · simp [exec, execRd32, State.read, h]

/-- A 1-byte read above CONTROL answers the byte and changes nothing else. -/
theorem exec_rd8_byte (hc : 0x100 ≤ off.toNat) :
    exec (.rd8 v off) s = .next (s.setRdata v (((s.engine v).byteAt s.par off.toNat).zeroExtend 32)) := by
  rcases (s.engine v).rd8_cases s.par off with ⟨-, h⟩ | ⟨h, -⟩
  · simp [exec, execRd8, State.read, h]
  · omega

end

/-- Recording an error changes the error record alone (R252). -/
theorem Engine.raise_frame {v : Variant} (e : Engine v) (c : IfaceError) :
    e.raise c = { e with err := (e.raise c).err, errCode := (e.raise c).errCode } := by
  unfold Engine.raise
  split <;> rfl

/-- Settles O24: the engine records MISALIGNED, which touches the error record alone. -/
theorem misalignedReadIsRefused : Obligations.MisalignedReadIsRefused := by
  intro v s off ha
  exact ⟨_, exec_rd32_misaligned v s ha, Engine.raise_frame _ _, Engine.raise_err _ _, Engine.raise_errCode _ _⟩

/-- Settles O26: lane `i` of the answer and the answer of the 1-byte read are both the byte at `off + i`; an aligned offset leaves room for
its four bytes below `2^32`. -/
theorem wordReadIsFourByteReads : Obligations.WordReadIsFourByteReads := by
  intro v s off hc ha
  refine ⟨_, exec_rd32_bytes v s hc ha, fun i hi => ?_⟩
  have hoff : (off + BitVec.ofNat 32 i).toNat = off.toNat + i := toNat_offset_add (by omega)
  refine ⟨_, exec_rd8_byte v s (by omega), ?_⟩
  rw [State.rdata_setRdata, State.rdata_setRdata, extract_ofLanes _ _ _ _ hi, hoff]
  match i, hi with
  | 0, _ | 1, _ | 2, _ | 3, _ => rfl

/-! ## Writes of MSGWIN (R214, R215) -/

/-- Two writes of adjoining ranges are one write of both. -/
theorem Memory.writeRange_writeRange {m : Memory} (h : m.wf) (base : Nat) (bs cs : List Byte) :
    (m.writeRange base bs).writeRange (base + bs.length) cs = m.writeRange base (bs ++ cs) := by
  refine Memory.ext (Memory.writeRange_wf (Memory.writeRange_wf h _ _) _ _) (Memory.writeRange_wf h _ _) fun a => ?_
  simp only [Memory.read?_writeRange, List.length_append]
  by_cases hb : base ≤ a ∧ a < base + bs.length
  · rw [if_neg (by omega), if_pos hb, if_pos (by omega), List.getElem?_append_left (by omega)]
  by_cases hc : base + bs.length ≤ a ∧ a < base + bs.length + cs.length
  · rw [if_pos hc, if_pos (by omega), List.getElem?_append_right (by omega), Nat.sub_sub]
  · rw [if_neg hc, if_neg hb, if_neg (by omega)]

theorem Engine.storeMsg_storeMsg {v : Variant} {e : Engine v} (h : e.msg.wf) {off : Nat} (low : 0x1000 ≤ off) (bs cs : List Byte) :
    (e.storeMsg off bs).storeMsg (off + bs.length) cs = e.storeMsg off (bs ++ cs) := by
  simp only [Engine.storeMsg, show off + bs.length - 0x1000 = off - 0x1000 + bs.length by omega, Memory.writeRange_writeRange h]

section
variable {v : Variant} {s : State} {off : Bus32}

/-- A 1-byte write of MSGWIN while not busy stores the lowest lane. -/
theorem exec_wr8_msgwin (hb : (s.engine v).busy = false) (low : 0x1000 ≤ off.toNat) (high : off.toNat < 0x1000 + msgCap s.par) (x : Bus32) :
    exec (.wr8 v off x) s = .next (s.setEngine v ((s.engine v).storeMsg off.toNat [lane x 0])) := by
  simp [exec, execWr8, State.modify, Engine.wr8, (region_msgwin_iff s.par _).mpr ⟨low, high⟩, hb]

/-- An aligned 4-byte write of MSGWIN while not busy stores the four lanes. -/
theorem exec_wr32_msgwin (hb : (s.engine v).busy = false) (ha : off.toNat % 4 = 0) (low : 0x1000 ≤ off.toNat)
    (high : off.toNat < 0x1000 + msgCap s.par) (x : Bus32) :
    exec (.wr32 v off x) s = .next (s.setEngine v ((s.engine v).storeMsg off.toNat (lanes x))) := by
  have hlen : off ≠ 0x00C#32 := by rintro rfl; simp at low
  have hcmd : off ≠ 0x004#32 := by rintro rfl; simp at low
  simp [exec, execWr32, State.modify, Engine.wr32, aligned, ha, (region_msgwin_iff s.par _).mpr ⟨low, high⟩, hb, hlen, hcmd]

/-- After a write of MSGWIN, a 1-byte write of the byte behind it is one write of one byte more. -/
theorem exec_wr8_after_storeMsg {t : State} {bs : List Byte} (hm : (s.engine v).msg.wf) (hb : (s.engine v).busy = false)
    (low : 0x1000 ≤ off.toNat) (high : off.toNat + bs.length < 0x1000 + msgCap s.par) (x : Bus32)
    (h : exec (.wr8 v (off + BitVec.ofNat 32 bs.length) x) (s.setEngine v ((s.engine v).storeMsg off.toNat bs)) = .next t) :
    t = s.setEngine v ((s.engine v).storeMsg off.toNat (bs ++ [lane x 0])) := by
  have hcap := msgCap_le s.par
  have hoff : (off + BitVec.ofNat 32 bs.length).toNat = off.toNat + bs.length := toNat_offset_add (by omega)
  rw [exec_wr8_msgwin (by simpa using hb) (by omega) (by simpa [hoff] using high), hoff] at h
  simpa [Engine.storeMsg_storeMsg hm low] using (Host.Outcome.next.inj h).symm

end

/-- Settles O30: each 1-byte write adds its byte to what the writes before it stored, so the four store the lanes of the word. -/
theorem wordWriteIsFourByteWrites : Obligations.WordWriteIsFourByteWrites := by
  intro v s s0 s1 s2 s3 off x hs hb ha low high h0 h1 h2 h3
  have hm : (s.engine v).msg.wf := ((State.inv_iff s).mp hs v).msgForm
  have hcap := msgCap_mod s.par
  rw [exec_wr8_msgwin hb low high] at h0
  obtain rfl := Host.Outcome.next.inj h0
  obtain rfl := exec_wr8_after_storeMsg hm hb low (by simp; omega) _ h1
  obtain rfl := exec_wr8_after_storeMsg hm hb low (by simp; omega) _ h2
  obtain rfl := exec_wr8_after_storeMsg hm hb low (by simp; omega) _ h3
  rw [exec_wr32_msgwin hb ha low high, lanes, ← lane_ushiftRight x 1, ← lane_ushiftRight x 2, ← lane_ushiftRight x 3]
  rfl

/-! ## The lockout of a busy engine (R62) -/

@[simp] theorem State.setRdata_rdata (s : State) (v : Variant) : s.setRdata v (s.rdata v) = s := by
  cases v <;> rfl

/-- A change of one engine and a record of its answer reach nothing else. -/
theorem State.onlyInstance_recordAnswer (s : State) (v : Variant) (e : Engine v) (x : Option Bus32) :
    s.onlyInstance ((s.setEngine v e).recordAnswer v x) v := by
  rw [State.onlyInstance, State.engine_recordAnswer, State.engine_setEngine]
  cases x with
  | none => exact (State.setRdata_rdata (s.setEngine v e) v).symm
  | some x => rw [State.recordAnswer, State.rdata_setRdata]

/-- An instruction changes its own engine and the answer of its last read, and nothing else of the machine (R3, R58). -/
theorem exec_onlyInstance {i : Instr} {s t : State} (h : exec i s = .next t) : s.onlyInstance t i.variant := by
  rw [exec_eq] at h
  obtain rfl := Host.Outcome.next.inj h
  exact State.onlyInstance_recordAnswer s _ _ _

/-- Only the word 2 decodes to CLEAR (R82). -/
theorem eq_two_of_decodeCommand_clear {v : Variant} {word : Bus32} (h : decodeCommand v word = .clear v) : word = 2#32 := by
  simp only [decodeCommand] at h
  split_ifs at h with hrsv h0 h1 h2
  rw [commandWord_eq word, h2, show commandRsv word = 0#28 by simpa using hrsv]
  rfl

/-- Of the bus accesses only a CLEAR written to CMD clears (R217, R223): the access decodes to CLEAR, and never to a WR32 to CMD. -/
theorem aborts_of_decode_clear {v : Variant} {access : BusAccess}
    (h : decode v access.code = .clear v ∨ decode v access.code = .wr32 v 0x004#32 2#32) : (Stimulus.bus v access).aborts v := by
  cases access with
  | read size off =>
    simp only [BusAccess.code, decode, decodeBus] at h
    split_ifs at h <;> simp at h
  | write size off wdata =>
    by_cases hcmd : size = 2#2 ∧ off = 0x004#32
    · obtain ⟨rfl, rfl⟩ := hcmd
      rcases h with h | h
      · obtain rfl := eq_two_of_decodeCommand_clear h
        exact .inr rfl
      · simp only [BusAccess.code, decode, decodeCommand, and_self, if_true] at h
        split_ifs at h
    · simp only [BusAccess.code, if_neg hcmd, decode, decodeBus] at h
      split_ifs at h with h0 h1 h2 <;> simp at h
      exact absurd ⟨h2, h.1⟩ hcmd

/-- What a host instruction other than a CLEAR makes of a busy engine differs from it in the error record only. -/
theorem Engine.ChangedBy.busy_keeps {p : Params} {v : Variant} {e f : Engine v} {i : Instr} (h : e.ChangedBy p i f)
    (busy : e.busy = true) (host : ∀ code, encode i ≠ .phase code) (noClear : ¬ (i = .clear v ∨ i = .wr32 v 0x004#32 2#32)) :
    f = { e with err := f.err, errCode := f.errCode } := by
  cases h with
  | keep => rfl
  | raise c => exact e.raise_frame c
  | clearError => rfl
  | clear cmd => exact absurd cmd noClear
  | start cmd waiting | setLen x waiting | storeMsg off x bs waiting => simp [busy] at waiting
  | init | pad | segment | expand | round | update | assemble => exact absurd rfl (host _)

/-- Settles O35: an access is no micro-operation, and of what a host instruction may make of an engine a busy one admits the error record's
changes and CLEAR only. -/
theorem busyAccessesChangeOnlyTheErrorRecord : Obligations.BusyAccessesChangeOnlyTheErrorRecord := by
  intro v s access busy noAbort
  obtain ⟨t, ht, -, hchanged⟩ := exec_changedBy (decode v access.code) s
  refine ⟨t, ht, variant_decode v access.code ▸ exec_onlyInstance ht, ?_⟩
  exact (hchanged v).busy_keeps busy (encode_decode_access_ne_phase v access) (mt aborts_of_decode_clear noAbort)

/-! ## The two engines (R63) -/

/-- Changes of different engines and records of their answers commute. -/
theorem State.setEngine_recordAnswer_comm (s : State) {v u : Variant} (h : v ≠ u) (e : Engine v) (f : Engine u) (x y : Option Bus32) :
    (((s.setEngine v e).recordAnswer v x).setEngine u f).recordAnswer u y =
      (((s.setEngine u f).recordAnswer u y).setEngine v e).recordAnswer v x := by
  cases x <;> cases y <;> cases v <;> cases u <;> first | exact absurd rfl h | rfl

/-- An instruction after one of the other engine does what it would have done before it. -/
theorem exec_after_other {i j : Instr} {s t : State} (hij : i.variant ≠ j.variant) (h : exec i s = .next t) :
    exec j t = .next ((t.setEngine j.variant (effect s.par j (s.engine j.variant))).recordAnswer j.variant
      (answer s.par j (s.engine j.variant))) := by
  obtain ⟨t', ht, -, hother, hpar, -, -⟩ := exec_next i s
  obtain rfl : t' = t := Host.Outcome.next.inj (ht.symm.trans h)
  rw [exec_eq, hpar, (hother _ hij.symm).1]

/-- Settles O55: neither instruction sees what the other changed, and their changes commute. -/
theorem instancesCommute : Obligations.InstancesCommute := by
  refine ⟨fun i s u hu => ?_, fun i j s t u hij ht hu => ?_⟩
  · obtain ⟨t, ht, -, hother, -⟩ := exec_next i s
    exact ⟨t, ht, hother u hu⟩
  · refine ⟨_, exec_after_other hij ht, ?_⟩
    rw [exec_after_other hij.symm hu]
    rw [exec_eq] at ht hu
    obtain rfl := Host.Outcome.next.inj ht
    obtain rfl := Host.Outcome.next.inj hu
    rw [State.setEngine_recordAnswer_comm s hij]

end Sys2Proof.Machine

/-! # The encoding's obligations (30_encoding.md)

The decoder and the encoder undo each other, and a script of LOADMSG, START and WAIT_DONE leaves the digest. -/

namespace Sys2Proof.Machine

/-! ## Decoding a code (R82 to R87, R96) -/

section
variable {v : Variant}

/-- A word whose RSV is not 0 is in the row CMD_RSV_HIGH (R83). -/
theorem decodeCommand_high {rsv : BitVec 28} (h : rsv ≠ 0#28) (op : BitVec 4) : decodeCommand v (rsv ++ op) = .cmdRsvHigh v rsv op := by
  simp [decodeCommand, h]

/-- With RSV = 0, OP 4 to 7 are the row CMD_RSV_OP4TO7 (R83). -/
theorem decodeCommand_low2 (low : BitVec 2) : decodeCommand v (1#30 ++ low) = .cmdRsvOp4to7 v low := by
  cases v <;> (revert low; decide)

/-- With RSV = 0, OP 8 to 15 are the row CMD_RSV_OP8TO15 (R83). -/
theorem decodeCommand_low3 (low : BitVec 3) : decodeCommand v (1#29 ++ low) = .cmdRsvOp8to15 v low := by
  cases v <;> (revert low; decide)

end

/-- Settles O2: the fixed bits of a code select its row, and its free bits are the operands. -/
theorem decodeOfEncodeIsTheInstruction : Obligations.DecodeOfEncodeIsTheInstruction := by
  intro i hi
  cases i with
  | cmdRsvHigh v rsv op =>
    have hrsv : rsv ≠ 0#28 := by simpa [Instr.wellFormed] using hi
    exact decodeCommand_high hrsv op
  | cmdRsvOp4to7 v low => exact decodeCommand_low2 low
  | cmdRsvOp8to15 v low => exact decodeCommand_low3 low
  | nop | start | clear | clrErr => rfl
  | rd8 | rd32 | wr8 | wr32 | rd16 | rdx | wr16 | wrx => rfl
  | idle | init | pad | segment | expand | round | update | assemble | done | phaseRsv9 | phaseRsv10 | phaseRsv11 | phaseRsv12
  | phaseRsv13 | phaseRsv14 | phaseRsv15 => rfl

section
variable (v : Variant)

/-- Encoding what a command word decodes to gives the word: its two fields make it up (R81). -/
theorem encode_decodeCommand (word : Bus32) : encode (decodeCommand v word) = .command word := by
  have fixed : ∀ op : BitVec 4, encode (decodeCommand v (0#28 ++ op)) = .command (0#28 ++ op) := by
    cases v <;> decide
  rw [commandWord_eq word]
  by_cases h : commandRsv word = 0#28
  · rw [h]
    exact fixed _
  · rw [decodeCommand_high h]
    rfl

/-- Encoding what a bus descriptor decodes to gives the descriptor: each of the eight kinds has its row (R84, R85). -/
theorem encode_decodeBus (access : BusAccess) : encode (decodeBus v access) = .bus access := by
  have sizes : ∀ size : BitVec 2, size = 0#2 ∨ size = 1#2 ∨ size = 2#2 ∨ size = 3#2 := by decide
  cases access with
  | read size off => rcases sizes size with rfl | rfl | rfl | rfl <;> rfl
  | write size off wdata => rcases sizes size with rfl | rfl | rfl | rfl <;> rfl

/-- Encoding what a code decodes to gives the code. -/
theorem encode_decode (c : Code) : encode (decode v c) = c := by
  cases c with
  | command word => exact encode_decodeCommand v word
  | bus access => exact encode_decodeBus v access
  | phase code => exact encode_decodePhase v code

/-- The decoder gives instructions only: it names the row CMD_RSV_HIGH for words with RSV != 0 alone. -/
theorem wellFormed_decode (c : Code) : (decode v c).wellFormed = true := by
  cases c with
  | command word =>
    simp only [decode, decodeCommand]
    split_ifs with hrsv
    · exact hrsv
    all_goals rfl
  | bus access => cases access <;> simp only [decode, decodeBus] <;> split_ifs <;> rfl
  | phase code => simp only [decode, decodePhase]; split <;> rfl

end

/-- Settles O3: the decoder's instruction has the code, and any other instruction of the code would decode to it too. -/
theorem everyCodeIsThatOfOneRow : Obligations.EveryCodeIsThatOfOneRow := by
  intro v c
  refine ⟨wellFormed_decode v c, variant_decode v c, encode_decode v c, ?_⟩
  rintro i hi rfl rfl
  exact (decodeOfEncodeIsTheInstruction i hi).symm

/-- Settles O4: these are the words that `ExecCmd` finds reserved before anything else. -/
theorem reservedCommandWordsRaiseBadCmd : Obligations.ReservedCommandWordsRaiseBadCmd := by
  intro v word s h
  have reserved : commandRsv word ≠ 0#28 ∨ 4 ≤ (commandOp word).toNat := by
    rwa [ne_eq, BitVec.toNat_eq, toNat_commandRsv, toNat_commandOp]
  have hbad (e : Engine v) : e.execCmd s.par word = e.raise .badCmd := if_pos reserved
  exact (exec_decodeCommand v s word).trans (by simp only [hbad])

/-- Settles O1: the decoder, run on each of the codes. -/
theorem sampleCodesDecodeToTheirRows : Obligations.SampleCodesDecodeToTheirRows := by
  unfold Obligations.SampleCodesDecodeToTheirRows
  decide

/-! ## The padded message as bytes and as bits (R141 to R146) -/

section
open Reference

@[simp] theorem bitsOfByte_length (b : Byte) : (bitsOfByte b).length = 8 := by simp [bitsOfByte]

@[simp] theorem bitsOf_nil : bitsOf [] = [] := rfl

@[simp] theorem bitsOf_cons (b : Byte) (l : List Byte) : bitsOf (b :: l) = bitsOfByte b ++ bitsOf l := rfl

@[simp] theorem bitsOf_append (l r : List Byte) : bitsOf (l ++ r) = bitsOf l ++ bitsOf r := List.flatMap_append

/-- Dropping bytes drops eight bits for each. -/
theorem drop_bitsOf (k : Nat) (l : List Byte) : (bitsOf l).drop (8 * k) = bitsOf (l.drop k) := by
  induction k generalizing l with
  | zero => rfl
  | succ k ih =>
    cases l with
    | nil => simp
    | cons b l => simp [← ih, List.drop_append, List.drop_eq_nil_of_le, show 8 * (k + 1) - 8 = 8 * k by omega]

/-- Taking bytes takes eight bits for each. -/
theorem take_bitsOf (k : Nat) (l : List Byte) : (bitsOf l).take (8 * k) = bitsOf (l.take k) := by
  induction k generalizing l with
  | zero => rfl
  | succ k ih =>
    cases l with
    | nil => simp
    | cons b l => simp [← ih, List.take_append, List.take_of_length_le, show 8 * (k + 1) - 8 = 8 * k by omega]

/-- Zero bytes are zero bits. -/
theorem bitsOf_replicate_zero (n : Nat) : bitsOf (List.replicate n 0x00#8) = List.replicate (8 * n) false := by
  induction n with
  | zero => rfl
  | succ n ih =>
    rw [List.replicate_succ, bitsOf_cons, ih, show bitsOfByte 0x00#8 = List.replicate 8 false by decide, List.replicate_append_replicate,
      Nat.mul_succ, Nat.add_comm]

/-- The big-endian bytes of a number are its low bits, most significant first. -/
theorem bitsOf_beBytes (n x : Nat) : bitsOf (beBytes n x) = (List.range (8 * n)).map fun i => x.testBit (8 * n - 1 - i) := by
  induction n with
  | zero => rfl
  | succ n ih =>
    have first : bitsOfByte (BitVec.ofNat 8 (x / 256 ^ n)) = (List.range 8).map fun i => x.testBit (8 * (n + 1) - 1 - i) := by
      refine List.map_congr_left fun i hi => ?_
      have hi8 : i < 8 := List.mem_range.mp hi
      rw [BitVec.getLsbD_ofNat, show 256 = 2 ^ 8 from rfl, ← Nat.pow_mul, Nat.testBit_div_two_pow,
        show 8 * (n + 1) - 1 - i = 8 * n + (7 - i) by omega]
      simp [show 7 - i < 8 by omega, Nat.add_comm]
    rw [beBytes, bitsOf_cons, first, ih, show 8 * (n + 1) = 8 + 8 * n by omega, List.range_add, List.map_append, List.map_map]
    congr 1
    refine List.map_congr_left fun i _ => ?_
    rw [Function.comp_apply, show 8 + 8 * n - 1 - (8 + i) = 8 * n - 1 - i by omega]

/-- The zero bits of R141: seven after the bit that 0x80 begins with, and those of the zero bytes (R145). -/
theorem zeroBits_eq (v : Variant) (n : Nat) : zeroBits v n = 7 + 8 * (paddedLen v n - lenBytes v - n - 1) := by
  cases v <;> simp only [zeroBits, paddedLen, blockBytes, blockBits, lenBytes, lenBits] <;> omega

/-- The padded message, each byte most significant bit first, is the padded bit sequence (R141, R145). -/
theorem bitsOf_paddedBytes (v : Variant) (m : List Byte) : bitsOf (paddedBytes v m) = paddedBits v m := by
  have marker : bitsOfByte 0x80#8 = true :: List.replicate 7 false := by decide
  have length : bitsOf (beBytes (lenBytes v) (8 * m.length)) = lenField v (8 * m.length) := by
    rw [bitsOf_beBytes, lenField, show 8 * lenBytes v = lenBits v by cases v <;> rfl]
  simp only [paddedBytes, paddedBits, bitsOf_append, bitsOf_cons, marker, bitsOf_replicate_zero, length, zeroBits_eq,
    ← List.replicate_append_replicate, List.cons_append, List.append_assoc]

/-- Bits read onto a number: it moves up by their count. -/
theorem foldl_natOfBits (l : List Bool) (a : Nat) : l.foldl (fun acc b => 2 * acc + b.toNat) a = a * 2 ^ l.length + natOfBits l := by
  induction l generalizing a with
  | nil => simp [natOfBits]
  | cons b l ih =>
    have head : natOfBits (b :: l) = (2 * 0 + b.toNat) * 2 ^ l.length + natOfBits l := ih _
    rw [List.foldl_cons, ih, head, List.length_cons]
    ring

/-- Bytes read as bits are the number that they encode big-endian. -/
theorem natOfBits_bitsOf (l : List Byte) : natOfBits (bitsOf l) = beNat l := by
  have byte : ∀ b : Byte, natOfBits (bitsOfByte b) = b.toNat := by decide
  have onto (a : Nat) : (bitsOf l).foldl (fun acc b => 2 * acc + b.toNat) a = l.foldl (fun acc b => acc * 256 + b.toNat) a := by
    induction l generalizing a with
    | nil => rfl
    | cons b l ih =>
      rw [bitsOf_cons, List.foldl_append, foldl_natOfBits (bitsOfByte b) a, byte, bitsOfByte_length, ih, List.foldl_cons,
        show 2 ^ 8 = 256 from rfl]
  exact onto 0

/-- Word `q` of the padded bit sequence, from the bytes of the padded message (R146, R148). -/
theorem wordOfBits_paddedBits (v : Variant) (m : List Byte) (q : Nat) :
    wordOfBits v (paddedBits v m) q = beWord v (((paddedBytes v m).drop (q * wordBytes v)).take (wordBytes v)) := by
  have hw : v.w = 8 * wordBytes v := by cases v <;> rfl
  rw [wordOfBits, beWord, ← natOfBits_bitsOf, ← take_bitsOf, ← drop_bitsOf, bitsOf_paddedBytes, ← hw,
    show q * v.w = 8 * (q * wordBytes v) by rw [hw]; ring]

/-- BlockWord gives the words of the message's blocks where PADBUF holds the padded message (R146, R148). -/
theorem Engine.holdsPadded.blockWord_eq {v : Variant} {e : Engine v} {m : List Byte} (h : e.holdsPadded m) {j : Nat}
    (hj : j < blockCount v m.length) (t : Fin 16) : e.blockWord j t.val = block v m j t := by
  have hBB : blockBytes v = 16 * wordBytes v := by cases v <;> rfl
  have inside : (j + 1) * blockBytes v ≤ paddedLen v m.length :=
    (Nat.mul_le_mul_right _ hj).trans (Nat.div_mul_le_self _ _)
  rw [block, wordOfBits_paddedBits, Engine.blockWord]
  congr 1
  have hpos : j * blockBytes v + t.val * wordBytes v = (16 * j + t.val) * wordBytes v := by rw [hBB]; ring
  have hroom : (16 * j + t.val) * wordBytes v + wordBytes v ≤ paddedLen v m.length := by
    have ht := Nat.mul_le_mul_right (wordBytes v) (show 16 * j + t.val + 1 ≤ 16 * (j + 1) by omega)
    rw [hBB] at inside
    linarith
  refine List.ext_getElem? fun i => ?_
  rw [List.getElem?_map, List.getElem?_take, List.getElem?_drop, hpos]
  by_cases hi : i < wordBytes v
  · rw [List.getElem?_range hi, if_pos hi, ← h _ (by omega)]
    rfl
  · rw [if_neg hi, List.getElem?_eq_none (by simpa using hi)]
    rfl

end

/-! ## A run, micro-step by micro-step (R168, R223, R225) -/

/-- The engine after the micro-step of its `PHASE`; where the engine has no step, the engine (R211, R87). -/
def Engine.microStep {v : Variant} (e : Engine v) : Engine v :=
  match e.phase.toNat with
  | 1 => e.init
  | 2 => e.pad
  | 3 => e.segment
  | 4 => e.expand
  | 5 => e.round
  | 6 => e.update
  | 7 => e.assemble
  | _ => e

/-- The instruction of a `PHASE` makes the micro-step of its engine. -/
theorem exec_decodePhase (v : Variant) (s : State) :
    exec (decodePhase v (s.engine v).phase) s = .next (s.setEngine v (s.engine v).microStep) := by
  simp only [decodePhase, Engine.microStep]
  split <;> simp_all [exec_eq, effect, answer, State.recordAnswer]

/-- An engine stimulus makes the micro-step of its engine and changes nothing else (R211). -/
theorem step_microStep {s : State} {v : Variant} {rest : List Stimulus} (h : s.inbox = .engine v :: rest) :
    step s = .next ({ s with inbox := rest }.setEngine v (s.engine v).microStep) := by
  rw [step_engine h]
  simpa only [State.engine_inbox] using exec_decodePhase v { s with inbox := rest }

/-- How many micro-steps a run on course has still to make (R225): `R + 2` for each block to come, and ASSEMBLE. -/
def Engine.stepsLeft {v : Variant} (e : Engine v) : Nat :=
  match e.phase.toNat with
  | 1 => Reference.runLength v e.msgLen.toNat
  | 2 => Reference.runLength v e.msgLen.toNat - 1
  | 3 => Reference.runLength v e.msgLen.toNat - 2
  | 4 => (e.nblk.toNat - e.blk.toNat) * (v.rounds + 2) + 1
  | 5 => (e.nblk.toNat - e.blk.toNat - 1) * (v.rounds + 2) + (v.rounds - e.rnd.toNat) + 2
  | 6 => (e.nblk.toNat - e.blk.toNat - 1) * (v.rounds + 2) + 2
  | 7 => 1
  | _ => 0

section
variable {v : Variant} {p : Params} {e : Engine v}

/-- The first 56 or 128 bytes of what ASSEMBLE gives HEX are the digest string (R190, R194). -/
theorem hexBuffer_take (h : Words8 v) : (hexBuffer v h).toList.take (hexLen v) = digestString v h := by
  have hlen : hexLen v ≤ 128 := by cases v <;> decide
  refine List.ext_getElem? fun i => ?_
  rw [List.getElem?_take]
  split
  · next hi =>
    rw [← digestString_length v h] at hi
    simp [hexBuffer, hi, show i < 128 by rw [digestString_length] at hi; omega]
  · next hi =>
    rw [List.getElem?_eq_none (by rw [digestString_length]; omega)]

/-- An engine that begins a run is on course if its length fits (R140). -/
theorem Engine.onCourse_start (hp : e.phase = 1#4) (fits : e.msgLen.toNat ≤ msgCap p) : e.OnCourse p := by
  constructor
  case length => exact fun _ => fits
  all_goals simp [hp]

theorem Engine.OnCourse.init (he : e.OnCourse p) (hp : e.phase = 1#4) : e.init.OnCourse p := by
  constructor
  case length => exact fun _ => he.length (by simp [Engine.busy, hp])
  all_goals simp

theorem Engine.OnCourse.pad (he : e.OnCourse p) (hp : e.phase = 2#4) : e.pad.OnCourse p := by
  have fits := he.length (by simp [Engine.busy, hp])
  have hlt := (paddedLen_bounds v fits).1
  constructor
  case length => exact fun _ => fits
  case started => exact fun _ => he.started (.inl hp)
  case padLen => exact fun _ => Nat.mod_eq_of_lt hlt
  case padded =>
    intro _ _ i hi
    have hi' : i < paddedLen v e.msgLen.toNat := by simpa [Engine.runMessage] using hi
    rw [e.padByte_pad_inside hi']
    exact (List.getElem?_eq_getElem _).symm
  all_goals simp

theorem Engine.OnCourse.segment (he : e.OnCourse p) (hp : e.phase = 3#4) : e.segment.OnCourse p := by
  have fits := he.length (by simp [Engine.busy, hp])
  obtain ⟨hlt, -, hpos, hle, -⟩ := paddedLen_bounds v fits
  have hlen := he.padLen hp
  have hnblk : e.segment.nblk.toNat = paddedLen v e.msgLen.toNat / blockBytes v := by
    rw [Engine.segment_nblk, hlen, BitVec.toNat_ofNat, Nat.mod_eq_of_lt (by omega)]
  constructor
  case length => exact fun _ => fits
  case padded => exact fun _ _ => he.padded (by simp [hp]) (by simp [hp])
  case chained =>
    refine fun _ _ => ⟨⟨hlen, hnblk⟩, ?_, he.started (.inr hp)⟩
    rw [hnblk]
    exact hpos
  all_goals simp

theorem Engine.OnCourse.expand (he : e.OnCourse p) (hp : e.phase = 4#4) : e.expand.OnCourse p := by
  have hpadded := he.padded (by simp [hp]) (by simp [hp])
  obtain ⟨hset, hblk, hchain⟩ := he.chained (by simp [hp]) (by simp [hp])
  have hcount : e.blk.toNat < Reference.blockCount v e.runMessage.length := by
    simpa [Engine.runMessage, Reference.blockCount, ← hset.2] using hblk
  constructor
  case length => exact fun _ => he.length (by simp [Engine.busy, hp])
  case padded => exact fun _ _ => hpadded
  case chained => exact fun _ _ => ⟨hset, hblk, hchain⟩
  case rounds => exact fun _ => ⟨congrArg (schedule v) (funext fun t => hpadded.blockWord_eq hcount t), rfl⟩
  case roundNext => exact fun _ => by cases v <;> simp
  all_goals simp

/-- A round takes RND from `n` to `n + 1`, which its 8 bits hold. -/
theorem Engine.round_rnd_toNat (h : e.rnd.toNat < v.rounds) : e.round.rnd.toNat = e.rnd.toNat + 1 := by
  have hR : v.rounds ≤ 80 := by cases v <;> decide
  rw [Engine.round_rnd, BitVec.toNat_add]
  exact Nat.mod_eq_of_lt (by simp; omega)

theorem Engine.OnCourse.round (he : e.OnCourse p) (hp : e.phase = 5#4) : e.round.OnCourse p := by
  have hrnd := he.roundNext hp
  have hnext := Engine.round_rnd_toNat hrnd
  obtain ⟨hsched, hwork⟩ := he.rounds (.inl hp)
  have hword : e.schedWord e.rnd.toNat = e.sched[e.rnd.toNat]?.getD 0 := by simp [Engine.schedWord, hrnd]
  constructor
  case length => exact fun _ => he.length (by simp [Engine.busy, hp])
  case padded => exact fun _ _ => he.padded (by simp [hp]) (by simp [hp])
  case chained => exact fun _ _ => he.chained (by simp [hp]) (by simp [hp])
  case rounds =>
    refine fun _ => ⟨hsched, ?_⟩
    rw [hnext, Engine.round_work, hword, hwork]
    rfl
  case roundNext =>
    rw [hnext, Engine.round_phase]
    split <;> [simp; (intro; omega)]
  case roundLast =>
    rw [hnext, Engine.round_phase]
    split <;> simp [*]
  all_goals (rw [Engine.round_phase]; split <;> simp)

/-- UPDATE takes BLK from `j` to `j + 1`, which its 32 bits hold where there is a block `j`. -/
theorem Engine.update_blk_toNat (h : e.blk.toNat < e.nblk.toNat) : e.update.blk.toNat = e.blk.toNat + 1 := by
  have := e.nblk.isLt
  rw [Engine.update_blk, BitVec.toNat_add]
  exact Nat.mod_eq_of_lt (by simp; omega)

theorem Engine.OnCourse.update (he : e.OnCourse p) (hp : e.phase = 6#4) : e.update.OnCourse p := by
  obtain ⟨hset, hblk, hchain⟩ := he.chained (by simp [hp]) (by simp [hp])
  obtain ⟨hsched, hwork⟩ := he.rounds (.inr hp)
  have hnext := Engine.update_blk_toNat hblk
  have hcompress : e.update.h = Reference.chain v e.runMessage (e.blk.toNat + 1) := by
    rw [Engine.update_h, hwork, hsched, he.roundLast hp, hchain]
    rfl
  have hphase : e.update.phase = if e.blk.toNat + 1 < e.nblk.toNat then 4#4 else 7#4 := by rw [← hnext]; rfl
  constructor
  case length => exact fun _ => he.length (by simp [Engine.busy, hp])
  case padded => exact fun _ _ => he.padded (by simp [hp]) (by simp [hp])
  case chained =>
    rw [hphase, hnext]
    split
    · next hlt => exact fun _ _ => ⟨hset, hlt, hcompress⟩
    · simp
  case compressed =>
    rw [hphase]
    split
    · simp
    · next hlast =>
      intro _
      have hcount : e.blk.toNat + 1 = Reference.blockCount v e.runMessage.length := by
        rw [Engine.runMessage, Engine.message_length, Reference.blockCount, ← hset.2]
        omega
      rw [hcompress, hcount]
      rfl
  all_goals (rw [hphase]; split <;> simp)

/-- ASSEMBLE ends a run with the digest of its message (R190, R224). -/
theorem Engine.OnCourse.holdsDigest_assemble (he : e.OnCourse p) (hp : e.phase = 7#4) : e.assemble.holdsDigest e.runMessage := by
  have hh : e.h = Reference.finalState v e.runMessage := he.compressed hp
  refine ⟨rfl, hh, by rw [← hh]; rfl, ?_⟩
  rw [Engine.assemble_hex, hexBuffer_take, hh, Reference.digest]

theorem Engine.OnCourse.assemble (he : e.OnCourse p) (hp : e.phase = 7#4) : e.assemble.OnCourse p := by
  have fits := he.length (by simp [Engine.busy, hp])
  constructor
  case length => exact fun _ => fits
  case done => exact fun _ => ⟨e.runMessage, by simpa [Engine.runMessage] using fits, he.holdsDigest_assemble hp⟩
  all_goals simp

end

section
variable {v : Variant} {p : Params} {e : Engine v}

/-- The seven micro-steps of a busy engine, by its `PHASE` (R86, R211). -/
theorem Engine.microStep_cases (h : e.busy = true) :
    (e.phase = 1#4 ∧ e.microStep = e.init) ∨ (e.phase = 2#4 ∧ e.microStep = e.pad) ∨ (e.phase = 3#4 ∧ e.microStep = e.segment) ∨
    (e.phase = 4#4 ∧ e.microStep = e.expand) ∨ (e.phase = 5#4 ∧ e.microStep = e.round) ∨ (e.phase = 6#4 ∧ e.microStep = e.update) ∨
    (e.phase = 7#4 ∧ e.microStep = e.assemble) := by
  have hphase : ∀ c : BitVec 4, 1 ≤ c.toNat ∧ c.toNat ≤ 7 →
      c = 1#4 ∨ c = 2#4 ∨ c = 3#4 ∨ c = 4#4 ∨ c = 5#4 ∨ c = 6#4 ∨ c = 7#4 := by decide
  rcases hphase _ (e.busy_iff.mp h) with hp | hp | hp | hp | hp | hp | hp <;> simp [Engine.microStep, hp]

theorem Engine.microStep_of_not_busy (h : e.busy = false) : e.microStep = e := by
  unfold Engine.microStep
  split <;> simp_all [Engine.busy]

/-- No micro-step touches the message of its run (R283). -/
@[simp] theorem Engine.runMessage_microStep : e.microStep.runMessage = e.runMessage := by
  unfold Engine.microStep
  split <;> rfl

/-- Every micro-step keeps a run on course. -/
theorem Engine.OnCourse.microStep (he : e.OnCourse p) : e.microStep.OnCourse p := by
  cases hb : e.busy with
  | false => rwa [Engine.microStep_of_not_busy hb]
  | true =>
    rcases Engine.microStep_cases hb with ⟨hp, h⟩ | ⟨hp, h⟩ | ⟨hp, h⟩ | ⟨hp, h⟩ | ⟨hp, h⟩ | ⟨hp, h⟩ | ⟨hp, h⟩ <;> rw [h]
    · exact he.init hp
    · exact he.pad hp
    · exact he.segment hp
    · exact he.expand hp
    · exact he.round hp
    · exact he.update hp
    · exact he.assemble hp

/-- A run is over when it has no micro-step to make. -/
theorem Engine.stepsLeft_pos_iff : 0 < e.stepsLeft ↔ e.busy = true := by
  have : 4 ≤ Reference.runLength v e.msgLen.toNat := Nat.le_add_right _ _
  rw [Engine.busy_iff, Engine.stepsLeft]
  split <;> simp_all <;> omega

/-- SEGMENT finds as many blocks as the length of the run counts (R147, R149). -/
theorem Engine.OnCourse.stepsLeft_segment (he : e.OnCourse p) (hp : e.phase = 3#4) : e.stepsLeft = e.segment.stepsLeft + 1 := by
  have hcount : e.segment.nblk.toNat = Reference.blockCount v e.msgLen.toNat := ((he.segment hp).chained (by simp) (by simp)).1.2
  simp [Engine.stepsLeft, hp, hcount, Reference.runLength, -Engine.segment_nblk]
  omega

/-- EXPAND is the first of a block's `R + 2` micro-steps. -/
theorem Engine.OnCourse.stepsLeft_expand (he : e.OnCourse p) (hp : e.phase = 4#4) : e.stepsLeft = e.expand.stepsLeft + 1 := by
  obtain ⟨-, hblk, -⟩ := he.chained (by simp [hp]) (by simp [hp])
  obtain ⟨k, hk⟩ : ∃ k, e.nblk.toNat - e.blk.toNat = k + 1 := ⟨e.nblk.toNat - e.blk.toNat - 1, by omega⟩
  have hbefore : e.stepsLeft = (k + 1) * (v.rounds + 2) + 1 := by simp [Engine.stepsLeft, hp, hk]
  have hafter : e.expand.stepsLeft = k * (v.rounds + 2) + v.rounds + 2 := by simp [Engine.stepsLeft, hk]
  rw [hbefore, hafter]
  ring

theorem Engine.OnCourse.stepsLeft_round (he : e.OnCourse p) (hp : e.phase = 5#4) : e.stepsLeft = e.round.stepsLeft + 1 := by
  have hrnd := he.roundNext hp
  simp only [Engine.stepsLeft, hp, Engine.round_rnd_toNat hrnd, Engine.round_phase, Engine.round_nblk, Engine.round_blk]
  split_ifs <;> simp <;> omega

/-- UPDATE is the last micro-step of a block. -/
theorem Engine.OnCourse.stepsLeft_update (he : e.OnCourse p) (hp : e.phase = 6#4) : e.stepsLeft = e.update.stepsLeft + 1 := by
  obtain ⟨-, hblk, -⟩ := he.chained (by simp [hp]) (by simp [hp])
  have hnext := Engine.update_blk_toNat hblk
  simp only [Engine.stepsLeft, hp, Engine.update_phase, Engine.update_nblk, hnext, ← Engine.update_blk]
  split_ifs with hlast
  · simp [Nat.sub_sub]
  · simp [show e.nblk.toNat - e.blk.toNat - 1 = 0 by omega]

/-- Every micro-step of a run on course is one less to make. -/
theorem Engine.OnCourse.stepsLeft_microStep (he : e.OnCourse p) (hb : e.busy = true) : e.stepsLeft = e.microStep.stepsLeft + 1 := by
  have : 4 ≤ Reference.runLength v e.msgLen.toNat := Nat.le_add_right _ _
  rcases Engine.microStep_cases hb with ⟨hp, h⟩ | ⟨hp, h⟩ | ⟨hp, h⟩ | ⟨hp, h⟩ | ⟨hp, h⟩ | ⟨hp, h⟩ | ⟨hp, h⟩ <;> rw [h]
  · simp [Engine.stepsLeft, hp]; omega
  · simp [Engine.stepsLeft, hp]; omega
  · exact he.stepsLeft_segment hp
  · exact he.stepsLeft_expand hp
  · exact he.stepsLeft_round hp
  · exact he.stepsLeft_update hp
  · simp [Engine.stepsLeft, hp]

@[simp] theorem Engine.init_busy : e.init.busy = true := rfl
@[simp] theorem Engine.pad_busy : e.pad.busy = true := rfl
@[simp] theorem Engine.segment_busy : e.segment.busy = true := rfl
@[simp] theorem Engine.expand_busy : e.expand.busy = true := rfl

@[simp] theorem Engine.round_busy : e.round.busy = true := by
  rw [Engine.busy_iff, Engine.round_phase]
  split <;> decide

@[simp] theorem Engine.update_busy : e.update.busy = true := by
  rw [Engine.busy_iff, Engine.update_phase]
  split <;> decide

/-- ASSEMBLE is the one micro-step that ends a run (R223). -/
theorem Engine.busy_microStep (hb : e.busy = true) (hp : e.phase ≠ 7#4) : e.microStep.busy = true := by
  rcases Engine.microStep_cases hb with ⟨-, h⟩ | ⟨-, h⟩ | ⟨-, h⟩ | ⟨-, h⟩ | ⟨-, h⟩ | ⟨-, h⟩ | ⟨hp', -⟩
  case inr.inr.inr.inr.inr.inr => exact absurd hp' hp
  all_goals simp [h]

/-! ## A run for a message (R224, R225) -/

/-- A run for the message `m` with `n` micro-steps to go: on course with `m` in MSG while it goes on, and at its end with the digest of
`m`. -/
structure Engine.RunsFor {v : Variant} (p : Params) (m : List Byte) (n : Nat) (e : Engine v) : Prop where
  onCourse : e.OnCourse p
  message : e.busy = true → e.runMessage = m
  result : e.busy = false → e.holdsDigest m
  left : e.stepsLeft = n

variable {m : List Byte} {n : Nat}

theorem Engine.RunsFor.microStep (h : e.RunsFor p m (n + 1)) : e.microStep.RunsFor p m n := by
  have hb : e.busy = true := Engine.stepsLeft_pos_iff.mp (by rw [h.left]; omega)
  have hleft := h.onCourse.stepsLeft_microStep hb
  refine ⟨h.onCourse.microStep, fun _ => ?_, fun hend => ?_, ?_⟩
  · rw [Engine.runMessage_microStep, h.message hb]
  · have hp : e.phase = 7#4 := by
      by_contra hp
      simp [Engine.busy_microStep hb hp] at hend
    have := h.onCourse.holdsDigest_assemble hp
    simpa [Engine.microStep, hp, h.message hb] using this
  · have := h.left
    omega

/-- A run with no micro-step to go has left the digest of its message. -/
theorem Engine.RunsFor.digest (h : e.RunsFor p m 0) : e.holdsDigest m := by
  have hb : ¬ e.busy = true := by rw [← Engine.stepsLeft_pos_iff, h.left]; decide
  exact h.result (by simpa using hb)

end

/-! ## Scripts (R90 to R95) -/

/-- With `xs` next in the schedule, the steps for them lead from a state of `P` to one of `Q`, and leave the rest of the schedule. -/
def Leads (xs : List Stimulus) (P Q : State → Prop) : Prop :=
  ∀ (s : State) (rest : List Stimulus), s.inbox = xs ++ rest → P s → ∃ t, core.run xs.length s = .next t ∧ t.inbox = rest ∧ Q t

theorem run_succ_inv {n : Nat} {s t : State} (h : core.run (n + 1) s = .next t) : ∃ r, step s = .next r ∧ core.run n r = .next t := by
  match hr : step s with
  | .next r => exact ⟨r, rfl, run_succ n hr ▸ h⟩
  | .fault x => nomatch x
  | .refused x =>
    have h' : core.step s = .refused x := hr
    simp [Host.Core.run, h'] at h

/-- A run goes on from where a shorter one ends. -/
theorem run_add {m : Nat} {s t : State} (n : Nat) (h : core.run m s = .next t) : core.run (m + n) s = core.run n t := by
  induction m generalizing s with
  | zero => rw [Nat.zero_add, Host.Outcome.next.inj h]
  | succ m ih =>
    obtain ⟨r, hr, hrun⟩ := run_succ_inv h
    rw [Nat.succ_add, run_succ (m + n) hr, ih hrun]

section
variable {P Q R : State → Prop} {xs ys : List Stimulus} {x : Stimulus}

theorem Leads.nil : Leads [] P P := fun s _ hin hs => ⟨s, rfl, hin, hs⟩

theorem Leads.weaken (h : Leads xs P Q) (himp : ∀ s, Q s → R s) : Leads xs P R := by
  intro s rest hin hs
  obtain ⟨t, hrun, ht, hQ⟩ := h s rest hin hs
  exact ⟨t, hrun, ht, himp t hQ⟩

theorem Leads.append (h : Leads xs P Q) (h' : Leads ys Q R) : Leads (xs ++ ys) P R := by
  intro s rest hin hs
  obtain ⟨t, hrun, ht, hQ⟩ := h s (ys ++ rest) (by simpa using hin) hs
  obtain ⟨u, hrun', hu, hR⟩ := h' t rest ht hQ
  exact ⟨u, by rw [List.length_append, run_add _ hrun, hrun'], hu, hR⟩

theorem Leads.single (h : ∀ s rest, s.inbox = x :: rest → P s → ∃ t, step s = .next t ∧ t.inbox = rest ∧ Q t) : Leads [x] P Q := by
  intro s rest hin hs
  obtain ⟨t, hstep, ht, hQ⟩ := h s rest hin hs
  exact ⟨t, run_succ 0 hstep, ht, hQ⟩

theorem Leads.cons (h : Leads [x] P Q) (h' : Leads xs Q R) : Leads (x :: xs) P R := h.append h'

/-- A stimulus that counts down, repeated. -/
theorem Leads.replicate {P : Nat → State → Prop} (h : ∀ n, Leads [x] (P (n + 1)) (P n)) (n : Nat) :
    Leads (List.replicate n x) (P n) (P 0) := by
  induction n with
  | zero => exact .nil
  | succ n ih => exact (h n).cons ih

end

/-- A WR32 of a script runs as the instruction WR32, a write to CMD too (R91, R217). -/
theorem step_wr32 {s : State} {v : Variant} {off : Nat} {x : Bus32} {rest : List Stimulus} (h : s.inbox = Script.wr32 v off x :: rest) :
    step s = exec (.wr32 v (BitVec.ofNat 32 off) x) { s with inbox := rest } := by
  rw [step_bus h]
  by_cases hcmd : BitVec.ofNat 32 off = 0x004#32
  · rw [hcmd]
    exact (writeToCmdExecutesTheCommandWord v x _).1.symm
  · simp [BusAccess.code, hcmd, decode, decodeBus]

/-! ## LOADMSG (R93) -/

theorem lanes_ofLanes (b0 b1 b2 b3 : Byte) : lanes (ofLanes b0 b1 b2 b3) = [b0, b1, b2, b3] := by
  have h (i : Nat) (hi : i < 4) : lane (ofLanes b0 b1 b2 b3) i = [b0, b1, b2, b3][i] := extract_ofLanes b0 b1 b2 b3 hi
  rw [lanes, h 0 (by decide), h 1 (by decide), h 2 (by decide), h 3 (by decide)]
  rfl

theorem lane_zeroExtend (b : Byte) : lane (b.zeroExtend 32) 0 = b := by
  apply BitVec.eq_of_toNat_eq
  simpa [lane] using b.isLt

/-- Where MSG begins with `l`, bytes stored behind it make it begin with both. -/
theorem Engine.message_storeMsg {v : Variant} {e : Engine v} {l : List Byte} (h : e.message l.length = l) (bs : List Byte) :
    (e.storeMsg (0x1000 + l.length) bs).message (l ++ bs).length = l ++ bs := by
  refine List.ext_getElem (by simp) fun i hi _ => ?_
  have hi' : i < l.length + bs.length := by simpa using hi
  rw [Engine.message_getElem _ (by simpa using hi)]
  by_cases hl : i < l.length
  · rw [Engine.msgByte_storeMsg_outside _ _ _ (.inl (by omega)), List.getElem_append_left hl, ← Engine.message_getElem e hl]
    simp only [h]
  · rw [Engine.msgByte_storeMsg_inside _ _ _ (by omega) (by omega), List.getElem_append_right (by omega)]
    simp only [Nat.add_sub_cancel_left]

/-- An engine that waits for a command, with the bytes `l` at the start of MSG. -/
structure State.Loaded (p : Params) (v : Variant) (l : List Byte) (s : State) : Prop where
  par : s.par = p
  waiting : (s.engine v).busy = false
  bytes : (s.engine v).message l.length = l

section
variable {p : Params} {v : Variant} {l : List Byte} {s : State}

theorem State.Loaded.setInbox (h : s.Loaded p v l) (xs : List Stimulus) : { s with inbox := xs }.Loaded p v l := by
  constructor <;> simp only [State.engine_inbox] <;> [exact h.par; exact h.waiting; exact h.bytes]

theorem State.Loaded.storeMsg (h : s.Loaded p v l) (bs : List Byte) :
    (s.setEngine v ((s.engine v).storeMsg (0x1000 + l.length) bs)).Loaded p v (l ++ bs) where
  par := by simpa using h.par
  waiting := by simpa using h.waiting
  bytes := by simpa only [State.engine_setEngine] using Engine.message_storeMsg h.bytes bs

/-- An offset of MSGWIN is below `2^32`. -/
theorem toNat_msgwin_offset {i : Nat} (h : i < msgCap p) : (BitVec.ofNat 32 (0x1000 + i)).toNat = 0x1000 + i := by
  have := msgCap_le p
  exact Nat.mod_eq_of_lt (by omega)

variable (p v) in
theorem leads_wr8 (b : Byte) {off : Nat} (hoff : off = 0x1000 + l.length) (fits : l.length < msgCap p) :
    Leads [Script.wr8 v off b] (State.Loaded p v l) (State.Loaded p v (l ++ [b])) := by
  subst hoff
  refine .single fun s rest hin hs => ?_
  have hs' := hs.setInbox rest
  have hoff := toNat_msgwin_offset fits
  refine ⟨_, ?_, ?_, hs'.storeMsg [b]⟩
  · rw [step_bus hin]
    have := exec_wr8_msgwin hs'.waiting (off := BitVec.ofNat 32 (0x1000 + l.length)) (by omega) (by rw [hs'.par]; omega) (b.zeroExtend 32)
    rw [lane_zeroExtend, hoff] at this
    exact this
  · simp

variable (p v) in
theorem leads_wr32 (b0 b1 b2 b3 : Byte) {off : Nat} (hoff : off = 0x1000 + l.length) (ha : l.length % 4 = 0) (fits : l.length < msgCap p) :
    Leads [Script.wr32 v off (ofLanes b0 b1 b2 b3)] (State.Loaded p v l) (State.Loaded p v (l ++ [b0, b1, b2, b3])) := by
  subst hoff
  refine .single fun s rest hin hs => ?_
  have hs' := hs.setInbox rest
  have hoff := toNat_msgwin_offset fits
  refine ⟨_, ?_, ?_, hs'.storeMsg [b0, b1, b2, b3]⟩
  · rw [step_wr32 hin, exec_wr32_msgwin hs'.waiting (by omega) (by omega) (by rw [hs'.par]; omega), lanes_ofLanes, hoff]
  · simp

/-- The writes of LOADMSG put their bytes behind those that are there: words, and the last bytes one by one (R93). -/
theorem leads_loadFrom (i : Nat) (bs : List Byte) (hi : i = l.length) (ha : l.length % 4 = 0) (fits : l.length + bs.length ≤ msgCap p) :
    Leads (Script.loadFrom v i bs) (State.Loaded p v l) (State.Loaded p v (l ++ bs)) := by
  induction i, bs using Script.loadFrom.induct generalizing l with
  | case1 i b0 b1 b2 b3 rest ih =>
    simp only [List.length_cons] at fits
    have word := leads_wr32 p v b0 b1 b2 b3 (congrArg (0x1000 + ·) hi) ha (by omega)
    have more := ih (l := l ++ [b0, b1, b2, b3]) (by simp [hi]) (by simp [ha]) (by simp; omega)
    simpa [Script.loadFrom] using word.cons more
  | case2 i b0 b1 b2 =>
    simp only [List.length_cons, List.length_nil] at fits
    have h0 := leads_wr8 p v b0 (congrArg (0x1000 + ·) hi) (by omega)
    have h1 := leads_wr8 p v (l := l ++ [b0]) b1 (off := 0x1000 + i + 1) (by simp [hi]; omega) (by simp; omega)
    have h2 := leads_wr8 p v (l := l ++ [b0] ++ [b1]) b2 (off := 0x1000 + i + 2) (by simp [hi]; omega) (by simp; omega)
    simpa [Script.loadFrom] using h0.cons (h1.cons h2)
  | case3 i b0 b1 =>
    simp only [List.length_cons, List.length_nil] at fits
    have h0 := leads_wr8 p v b0 (congrArg (0x1000 + ·) hi) (by omega)
    have h1 := leads_wr8 p v (l := l ++ [b0]) b1 (off := 0x1000 + i + 1) (by simp [hi]; omega) (by simp; omega)
    simpa [Script.loadFrom] using h0.cons h1
  | case4 i b0 =>
    simp only [List.length_cons, List.length_nil] at fits
    exact leads_wr8 p v b0 (congrArg (0x1000 + ·) hi) (by omega)
  | case5 i => simpa [Script.loadFrom] using Leads.nil

/-- LOADMSG leaves its bytes at the start of MSG and their number in MSG_LEN (R93). -/
theorem leads_loadMsg {m : List Byte} (fits : m.length ≤ msgCap p) :
    Leads (Script.loadMsg v m) (State.Loaded p v [])
      (fun s => s.Loaded p v m ∧ (s.engine v).msgLen.toNat = m.length) := by
  have bytes : Leads (Script.loadFrom v 0 m) (State.Loaded p v []) (State.Loaded p v m) :=
    leads_loadFrom 0 m rfl rfl (by simpa using fits)
  refine bytes.append (.single fun s rest hin hs => ?_)
  have hs' := hs.setInbox rest
  refine ⟨_, (step_wr32 hin).trans (msgLenStoresAnyValue v _ _ hs'.waiting), by simp, ⟨by simpa using hs'.par, ?_, ?_⟩, ?_⟩ <;>
    rw [State.engine_setEngine]
  · exact hs'.waiting
  · exact hs'.bytes
  · have := msgCap_le p
    exact Nat.mod_eq_of_lt (by omega)

/-! ## START, the run and the poll (R91, R92, R95) -/

/-- START begins the run for the message that LOADMSG left. -/
theorem leads_start {m : List Byte} (fits : m.length ≤ msgCap p) :
    Leads [Script.cmd v 0x1#32] (fun s => s.Loaded p v m ∧ (s.engine v).msgLen.toNat = m.length)
      (fun s => (s.engine v).RunsFor p m (Reference.runLength v m.length)) := by
  refine .single fun s rest hin ⟨hs, hlen⟩ => ?_
  have hs' := hs.setInbox rest
  refine ⟨_, (step_wr32 hin).trans (exec_wr32_cmd v _ _), by simp, ?_⟩
  have hstart : (s.engine v).execCmd s.par 0x1#32 = { s.engine v with phase := 1#4 } := by
    have hexec : (s.engine v).execCmd s.par 0x1#32 = (s.engine v).start s.par := rfl
    rw [hexec]
    rcases (s.engine v).start_cases s.par with ⟨hb, -⟩ | ⟨-, hlong, -⟩ | ⟨-, -, h⟩
    · simp [hs.waiting] at hb
    · rw [hs.par] at hlong
      omega
    · exact h
  rw [State.engine_modify, State.engine_inbox, hstart]
  have hmessage : (s.engine v).runMessage = m := by rw [Engine.runMessage, hlen, hs.bytes]
  exact ⟨Engine.onCourse_start rfl (hlen ▸ fits), fun _ => hmessage, by simp [Engine.busy], by simp [Engine.stepsLeft, hlen]⟩

/-- The micro-steps of a run lead to the digest of its message. -/
theorem leads_run (m : List Byte) (n : Nat) :
    Leads (List.replicate n (.engine v)) (fun s => (s.engine v).RunsFor p m n) (fun s => (s.engine v).holdsDigest m) := by
  have oneStep (k : Nat) : Leads [.engine v] (fun s => (s.engine v).RunsFor p m (k + 1)) (fun s => (s.engine v).RunsFor p m k) :=
    .single fun s rest hin hs => ⟨_, step_microStep hin, by simp, by simpa using hs.microStep⟩
  exact (Leads.replicate (P := fun k s => (s.engine v).RunsFor p m k) oneStep n).weaken fun _ => Engine.RunsFor.digest

/-- The poll of an engine in DONE answers BUSY = 0 and DONE = 1, and leaves the digest (R35, R92). -/
theorem leads_pollStatus (m : List Byte) :
    Leads [Script.pollStatus v] (fun s => (s.engine v).holdsDigest m)
      (fun s => (s.engine v).holdsDigest m ∧ (s.rdata v).getLsbD 0 = false ∧ (s.rdata v).getLsbD 1 = true) := by
  refine .single fun s rest hin hs => ?_
  obtain ⟨x, hread, hbusy, hdone, -⟩ := statusReadsItsFields v { s with inbox := rest }
  have hphase : (s.engine v).phase.toNat = 8 := congrArg BitVec.toNat hs.1
  rw [State.engine_inbox, hphase] at hbusy hdone
  refine ⟨_, (step_bus hin).trans hread, by simp, by simpa [State.engine_inbox] using hs, ?_, ?_⟩ <;> rw [State.rdata_setRdata]
  · simpa using hbusy
  · exact hdone.mpr rfl

end

/-- Settles O59: LOADMSG puts the bytes in MSG and their number in MSG_LEN, START begins a run for them, each engine step makes one of its
`4 + NBLK * (R + 2)` micro-steps, the last of which leaves DONE and the digest, and the poll reads DONE. -/
theorem hashScriptLeavesTheDigest : Obligations.HashScriptLeavesTheDigest := by
  intro s v m waiting fits hin
  have script : Leads (Script.hashRun v m (Reference.runLength v m.length)) (State.Loaded s.par v [])
      (fun t => (t.engine v).holdsDigest m ∧ (t.rdata v).getLsbD 0 = false ∧ (t.rdata v).getLsbD 1 = true) :=
    (leads_loadMsg fits).append ((leads_start fits).cons ((leads_run m _).append (leads_pollStatus m)))
  rw [hin]
  exact script s [] (by rw [hin, List.append_nil]) ⟨rfl, waiting, rfl⟩

end Sys2Proof.Machine

/-! # The bit utilities' obligations (40_bit_utilities.md)

Each native operation on `w`-bit words has the value of its mask-then-operate form, at every width. The rotation laws over unbounded
numbers are then those of native words. -/

namespace Sys2Proof.Machine

/-! ## Native operations and masked forms (R110 to R115, R124) -/

section
variable {w : Nat}

@[simp] theorem and_maskNat (x : Nat) : x &&& maskNat w = x % 2 ^ w := Nat.and_two_pow_sub_one_eq_mod x w

@[simp] theorem toNat_mask : (mask w).toNat = maskNat w := BitVec.toNat_allOnes

/-- The masked form also cuts the part shifted right, which fits the word already; at amount 0 the native form is `x | (x << w)`. -/
theorem toNat_rotr (x : BitVec w) (n : Nat) : (rotr x n).toNat = rotrNat w x.toNat n := by
  have hfits : x.toNat >>> (n % w) < 2 ^ w := (Nat.shiftRight_le _ _).trans_lt x.isLt
  rw [rotr, BitVec.toNat_rotateRight, rotrNat]
  split
  · next h => simp [h, Nat.shiftLeft_eq]
  · simp [Nat.or_mod_two_pow, Nat.mod_eq_of_lt hfits]

theorem toNat_rotl (x : BitVec w) (n : Nat) : (rotl x n).toNat = rotlNat w x.toNat n := by
  have hfits : x.toNat >>> (w - n % w) < 2 ^ w := (Nat.shiftRight_le _ _).trans_lt x.isLt
  rw [rotl, BitVec.toNat_rotateLeft, rotlNat]
  split
  · next h => simp [h, Nat.shiftRight_eq_div_pow, Nat.div_eq_of_lt x.isLt]
  · simp [Nat.or_mod_two_pow, Nat.mod_eq_of_lt hfits]

theorem toNat_shr (x : BitVec w) (n : Nat) : (shr x n).toNat = shrNat w x.toNat n := by
  simp [shr, shrNat]

theorem toNat_not_eq_notNat (x : BitVec w) : (~~~x).toNat = notNat w x.toNat := by
  rw [← BitVec.xor_allOnes, BitVec.toNat_xor, BitVec.toNat_allOnes, notNat, maskNat]

/-- R114: repeated two-operand addition is the exact sum masked once, for any number of operands. -/
theorem toNat_foldl_add (x : BitVec w) (ys : List (BitVec w)) :
    (ys.foldl (· + ·) x).toNat = addModNat w (x.toNat :: ys.map BitVec.toNat) := by
  induction ys generalizing x with
  | nil => simp [addModNat]
  | cons y ys ih => simp [ih, addModNat, Nat.add_assoc]

end

/-- Settles O47: every conjunct is the law of one operation, which holds at any width and amount. -/
theorem nativeWordsEqualTheMaskedForms : Obligations.NativeWordsEqualTheMaskedForms := fun _ x y n _ =>
  ⟨toNat_mask, toNat_rotr x n, toNat_rotl x n, toNat_shr x n, toNat_not_eq_notNat x, toNat_foldl_add x [y]⟩

/-- Settles O49: the engine's sums are left folds of two-operand addition. -/
theorem sumsMayBeMaskedOnce : Obligations.SumsMayBeMaskedOnce := fun _ a b c d e =>
  ⟨toNat_foldl_add a [b], toNat_foldl_add a [b, c, d], toNat_foldl_add a [b, c, d, e]⟩

/-! ## The sigma functions (R118 to R121) -/

/-- Settles O50: each sigma function is the XOR of its three terms by the amounts of its row, each term in its masked form. -/
theorem sigmaFunctionsUseTheListedAmounts : Obligations.SigmaFunctionsUseTheListedAmounts := by
  constructor <;> intro x <;>
    simp only [bsig0, bsig1, ssig0, ssig1, bsig0Amounts, bsig1Amounts, ssig0Amounts, ssig1Amounts, BitVec.toNat_xor, toNat_rotr,
      toNat_shr, Variant.w, and_self]

/-! ## The rotation laws (R123) -/

section
variable {w : Nat}

/-- Rotating right undoes rotating left: bit `i` comes back from place `i + m`, or from `i - (w - m)` if that is past the top. -/
theorem rotr_rotl (x : BitVec w) (n : Nat) : rotr (rotl x n) n = x := by
  ext i hi
  have hm : n % w < w := Nat.mod_lt _ (by omega)
  rw [rotr, rotl, BitVec.getElem_rotateRight]
  split
  · rw [BitVec.getElem_rotateLeft, dif_neg (by omega)]
    congr 1; omega
  · rw [BitVec.getElem_rotateLeft, dif_pos (by omega)]
    congr 1; omega

/-- A masked form reads only the low `w` bits of its operand. -/
theorem rotlNat_eq_toNat_rotl (x n : Nat) : rotlNat w x n = (rotl (BitVec.ofNat w x) n).toNat := by
  simp [toNat_rotl, rotlNat]

@[simp] theorem rotrNat_zero (x : Nat) : rotrNat w x 0 = x &&& maskNat w := by simp [rotrNat]

@[simp] theorem rotlNat_zero (x : Nat) : rotlNat w x 0 = x &&& maskNat w := by simp [rotlNat]

theorem rotrNat_rotlNat (x n : Nat) : rotrNat w (rotlNat w x n) n = x % 2 ^ w := by
  rw [rotlNat_eq_toNat_rotl, ← toNat_rotr, rotr_rotl, BitVec.toNat_ofNat]

end

/-- Settles O48: a number enters a rotation as a word of `w` bits, and rotating that word left and right again leaves it. -/
theorem rotationLaws : Obligations.RotationLaws := fun _ x n _ =>
  ⟨rotrNat_rotlNat x n, rotrNat_zero x, rotlNat_zero x⟩

end Sys2Proof.Machine

/-! # The padder's and the segmenter's obligations (41_padder_segmenter.md)

The padded message as bytes, range by range, and as bits; what PAD leaves in PADBUF; the blocks that SEGMENT counts and BlockWord reads. -/

namespace Sys2Proof.Machine

/-! ## The ranges of the padded message (R145) -/

section
variable (v : Variant) (m : List Byte)

theorem paddedBytes_getElem?_message {i : Nat} (h : i < m.length) : (paddedBytes v m)[i]? = m[i]? := by
  rw [paddedBytes, List.append_assoc, List.getElem?_append_left h]

theorem paddedBytes_getElem?_marker : (paddedBytes v m)[m.length]? = some 0x80#8 := by
  simp [paddedBytes]

theorem paddedBytes_getElem?_zero {i : Nat} (low : m.length < i) (high : i < paddedLen v m.length - lenBytes v) :
    (paddedBytes v m)[i]? = some 0x00#8 := by
  obtain ⟨k, rfl⟩ : ∃ k, i = m.length + (k + 1) := ⟨i - m.length - 1, by omega⟩
  have hk : k < paddedLen v m.length - lenBytes v - m.length - 1 := by omega
  rw [paddedBytes, List.append_assoc, List.getElem?_append_right (by omega), Nat.add_sub_cancel_left, List.cons_append,
    List.getElem?_cons_succ, List.getElem?_append_left (by simpa using hk), List.getElem?_replicate_of_lt hk]

theorem paddedBytes_getElem?_length {i : Nat} (h : i < lenBytes v) :
    (paddedBytes v m)[paddedLen v m.length - lenBytes v + i]? = some (BitVec.ofNat 8 (8 * m.length / 256 ^ (lenBytes v - 1 - i))) := by
  obtain ⟨-, hroom, -⟩ := paddedLen_spec v m.length
  have before : (m ++ 0x80#8 :: List.replicate (paddedLen v m.length - lenBytes v - m.length - 1) 0x00#8).length =
      paddedLen v m.length - lenBytes v := by
    simp only [List.length_append, List.length_cons, List.length_replicate]
    omega
  rw [paddedBytes, List.getElem?_append_right (by omega), before, Nat.add_sub_cancel_left,
    List.getElem?_eq_getElem (by simpa using h), beBytes_getElem _ _ h]

end

/-! ## PAD and SEGMENT as instructions (R145, R149) -/

section
variable (v : Variant) (s : State)

theorem exec_pad : exec (.pad v) s = .next (s.setEngine v (s.engine v).pad) := rfl

theorem exec_segment : exec (.segment v) s = .next (s.setEngine v (s.engine v).segment) := rfl

end

/-! ## PAD (R140, R144, R145) -/

/-- PAD leaves the padded message in PADBUF. -/
theorem Engine.holdsPadded_pad {v : Variant} (e : Engine v) : e.pad.holdsPadded e.runMessage := by
  intro i hi
  have hi' : i < paddedLen v e.msgLen.toNat := by simpa [Engine.runMessage] using hi
  rw [e.padByte_pad_inside hi']
  exact (List.getElem?_eq_getElem _).symm

/-- Settles O37: PADBUF holds the padded message below PADLEN, whose ranges are the message, 0x80, the zeros and the length. -/
theorem padWritesThePaddedMessage : Obligations.PadWritesThePaddedMessage := by
  rintro v s _ rfl fits
  set e := s.engine v
  have hlen : e.runMessage.length = e.msgLen.toNat := e.message_length _
  obtain ⟨hblocks, hroom, hleast⟩ := paddedLen_spec v e.msgLen.toNat
  have holds (i : Nat) (hi : i < paddedLen v e.msgLen.toNat) {b : Byte} (hb : (paddedBytes v e.runMessage)[i]? = some b) :
      e.pad.padByte i = b :=
    Option.some.inj ((e.holdsPadded_pad i (by rwa [hlen])).trans hb)
  refine ⟨e.pad, paddedLen v e.msgLen.toNat, exec_pad v s, rfl, hblocks, hroom, hleast,
    Nat.mod_eq_of_lt (paddedLen_bounds v fits).1, rfl, fun i hi => ?message, ?marker, fun i low high => ?zeros, fun i hi => ?length,
    fun i hi => e.padByte_pad_outside hi⟩
  case message =>
    refine holds i (by omega) ?_
    rw [paddedBytes_getElem?_message v _ (by omega), List.getElem?_eq_getElem (by omega)]
    exact congrArg some (e.message_getElem hi)
  case marker =>
    refine holds _ (by omega) ?_
    simpa only [hlen] using paddedBytes_getElem?_marker v e.runMessage
  case zeros => exact holds i (by omega) (paddedBytes_getElem?_zero v _ (by omega) (by rwa [hlen]))
  case length =>
    refine holds _ (by omega) ?_
    simpa only [hlen] using paddedBytes_getElem?_length v e.runMessage hi

/-! ## The padded bit sequence (R141 to R143) -/

section
open Reference

/-- Settles O38: the two forms agree for a message of any length. -/
theorem paddedBytesAreThePaddedBitSequence : Obligations.PaddedBytesAreThePaddedBitSequence := fun v m _ =>
  bitsOf_paddedBytes v m

theorem bitsOf_length (l : List Byte) : (bitsOf l).length = 8 * l.length := by
  induction l with
  | nil => rfl
  | cons b l ih => rw [bitsOf_cons, List.length_append, bitsOfByte_length, ih, List.length_cons, Nat.mul_succ, Nat.add_comm]

theorem paddedBits_length (v : Variant) (m : List Byte) : (paddedBits v m).length = 8 * paddedLen v m.length := by
  rw [← bitsOf_paddedBytes, bitsOf_length, paddedBytes_length]

/-- The zero bits fill the last block up to its length field. -/
theorem zeroBits_fill (v : Variant) (n : Nat) : (8 * n + 1 + zeroBits v n) % blockBits v = blockBits v - lenBits v := by
  cases v <;> simp only [zeroBits, blockBits, lenBits] <;> omega

/-- No smaller number of zero bits does: two that do differ by a multiple of `B`, and this one is below `B`. -/
theorem zeroBits_le {v : Variant} {n k : Nat} (h : (8 * n + 1 + k) % blockBits v = blockBits v - lenBits v) : zeroBits v n ≤ k := by
  have below : zeroBits v n < blockBits v := Nat.mod_lt _ (by cases v <;> decide)
  have same : zeroBits v n ≡ k [MOD blockBits v] := Nat.ModEq.add_left_cancel' _ ((zeroBits_fill v n).trans h.symm)
  rw [← Nat.mod_eq_of_lt below, same]
  exact Nat.mod_le _ _

/-- Settles O39: the zero bits fill a block and no fewer do; the sequence has the bits of `P(n)` bytes, a multiple of `BB`. -/
theorem zeroBitsAreTheFewestThatFillABlock : Obligations.ZeroBitsAreTheFewestThatFillABlock := by
  intro v m
  have hB : blockBits v = 8 * blockBytes v := by cases v <;> rfl
  have hlen := paddedBits_length v m
  refine ⟨zeroBits_fill v _, fun k => zeroBits_le, ?_, hlen⟩
  rw [hlen, hB, Nat.mul_mod_mul_left, (paddedLen_spec v m.length).1]

end

/-! ## Blocks (R146 to R149) -/

/-- Settles O41: PAD leaves the padded message in PADBUF, and there BlockWord gives the words of the message's blocks. -/
theorem blockWordsAreThePaddedWords : Obligations.BlockWordsAreThePaddedWords := by
  rintro v s t _ j q rfl - ht hj hq
  rw [exec_pad] at ht
  obtain rfl := Host.Outcome.next.inj ht
  rw [State.engine_setEngine]
  exact (s.engine v).holdsPadded_pad.blockWord_eq (by simpa [Engine.runMessage] using hj) ⟨q, hq⟩

/-- A padded length is its number of blocks times `BB`, and that number is not 0 (R144, R147). -/
theorem blockCount_spec (v : Variant) (n : Nat) :
    Reference.blockCount v n * blockBytes v = paddedLen v n ∧ 1 ≤ Reference.blockCount v n := by
  obtain ⟨hblocks, hroom, -⟩ := paddedLen_spec v n
  have hwhole : Reference.blockCount v n * blockBytes v = paddedLen v n := Nat.div_mul_cancel (Nat.dvd_of_mod_eq_zero hblocks)
  refine ⟨hwhole, Nat.pos_of_ne_zero fun hzero => ?_⟩
  rw [hzero] at hwhole
  omega

/-- Settles O40: the quotient fits NBLK, and for a padded length it is the number of its blocks. -/
theorem segmentCountsTheBlocks : Obligations.SegmentCountsTheBlocks := by
  intro v s
  have hnblk : (s.engine v).segment.nblk.toNat = (s.engine v).padLen.toNat / blockBytes v :=
    Nat.mod_eq_of_lt ((Nat.div_le_self _ _).trans_lt (s.engine v).padLen.isLt)
  refine ⟨_, exec_segment v s, rfl, hnblk, rfl, rfl, fun n hn => ?_⟩
  rw [hnblk, hn]
  exact blockCount_spec v n

end Sys2Proof.Machine

/-! # The compressor's obligations (42_compressor.md)

Every step keeps a run on course; INIT, EXPAND, ROUND and UPDATE as instructions; and the tables IV and K as fractions of roots of primes. -/

namespace Sys2Proof.Machine

/-! ## Runs on course (R168, R223, R224, R283) -/

section
variable {v : Variant} {p : Params} {e : Engine v}

/-- An engine that is not busy is on course if, in DONE, it has a digest to show: all else speaks of a run that goes on. -/
theorem Engine.onCourse_of_waiting (waiting : e.busy = false)
    (done : e.phase = 8#4 → ∃ m : List Byte, m.length ≤ msgCap p ∧ e.holdsDigest m) : e.OnCourse p := by
  have hphase : ¬ (1 ≤ e.phase.toNat ∧ e.phase.toNat ≤ 7) := fun h => by simp [e.busy_iff.mpr h] at waiting
  constructor
  case length => simp [waiting]
  case done => exact done
  case padded | chained => exact fun low high => absurd ⟨by omega, by omega⟩ hphase
  case started | rounds => rintro (h | h) <;> simp [h] at hphase
  all_goals exact fun h => by simp [h] at hphase

theorem Engine.OnCourse.raise (he : e.OnCourse p) (c : IfaceError) : (e.raise c).OnCourse p := by
  unfold Engine.raise
  split
  · exact he
  · exact { he with }

theorem Engine.OnCourse.clearError (he : e.OnCourse p) : e.clearError.OnCourse p :=
  { he with }

/-- Every step keeps a run on course: the host cannot touch what a run goes by while it goes on (R283). -/
theorem Engine.OnCourse.stepTo {f : Engine v} (he : e.OnCourse p) (h : e.StepTo p f) : f.OnCourse p := by
  rcases h with rfl | ⟨i, h, hcode⟩
  · exact Engine.onCourse_atReset p _ _ _
  have hphase {code : BitVec 4} (own : i.variant = v) (hi : encode i = .phase code) : e.phase = code := (hcode own code hi).symm
  cases h with
  | keep => exact he
  | raise c => exact he.raise c
  | clearError => exact he.clearError
  | clear => exact Engine.onCourse_of_waiting rfl (by simp)
  | start cmd waiting fits => exact Engine.onCourse_start rfl fits
  | setLen x waiting => exact Engine.onCourse_of_waiting waiting he.done
  | storeMsg off x bs waiting => exact Engine.onCourse_of_waiting waiting he.done
  | init => exact he.init (hphase rfl rfl)
  | pad => exact he.pad (hphase rfl rfl)
  | segment => exact he.segment (hphase rfl rfl)
  | expand => exact he.expand (hphase rfl rfl)
  | round => exact he.round (hphase rfl rfl)
  | update => exact he.update (hphase rfl rfl)
  | assemble => exact he.assemble (hphase rfl rfl)

end

/-- Both instances on course, for an engine named by its variant. -/
theorem State.onCourse_iff (s : State) : s.OnCourse ↔ ∀ v, (s.engine v).OnCourse s.par :=
  ⟨fun h v => by cases v <;> [exact h.1; exact h.2], fun h => ⟨h .e32, h .e64⟩⟩

/-- Settles O60: a step makes of each engine one of the things `StepTo` lists, and each of them keeps its run on course. -/
theorem everyStepKeepsTheRunsOnCourse : Obligations.EveryStepKeepsTheRunsOnCourse := by
  intro s t hs ht
  obtain ⟨hpar, hstep⟩ := step_stepTo ht
  rw [State.onCourse_iff] at hs ⊢
  intro v
  rw [hpar]
  exact (hs v).stepTo (hstep v)

/-! ## The micro-operations as instructions (R160, R165 to R167) -/

section
variable (v : Variant) (s : State)

theorem exec_init : exec (.init v) s = .next (s.setEngine v (s.engine v).init) := rfl

theorem exec_expand : exec (.expand v) s = .next (s.setEngine v (s.engine v).expand) := rfl

theorem exec_round : exec (.round v) s = .next (s.setEngine v (s.engine v).round) := rfl

theorem exec_update : exec (.update v) s = .next (s.setEngine v (s.engine v).update) := rfl

end

/-- Settles O36: INIT writes these elements and no others. -/
theorem initLoadsTheIV : Obligations.InitLoadsTheIV := fun v s =>
  ⟨(s.engine v).init, exec_init v s, rfl, rfl, rfl, rfl, rfl, rfl⟩

section
variable {v : Variant}

/-- A schedule word below `R`, by its index alone. -/
theorem Sched.getElem?_eq (w : Sched v) (t : Fin v.rounds) : w[t.val]? = some w[t] :=
  Vector.getElem?_eq_getElem t.isLt

/-- The first 16 words are the block's (R165). -/
theorem schedule_getElem_first (block : Fin 16 → Word v) (t : Fin v.rounds) (h : t.val < 16) :
    (schedule v block)[t] = block ⟨t.val, h⟩ := by
  have hword := schedule_first block h
  rw [Sched.getElem?_eq] at hword
  exact Option.some.inj hword

/-- Every later word is the sum of four earlier ones (R165). -/
theorem schedule_getElem_later (block : Fin 16 → Word v) {t a b c d : Fin v.rounds} (h16 : 16 ≤ t.val) (ha : a.val + 16 = t.val)
    (hb : b.val + 15 = t.val) (hc : c.val + 7 = t.val) (hd : d.val + 2 = t.val) :
    (schedule v block)[t] = (schedule v block)[a] + ssig0 v (schedule v block)[b] + (schedule v block)[c] +
      ssig1 v (schedule v block)[d] := by
  have hword := schedule_later block h16 t.isLt
  rw [show t.val - 16 = a.val by omega, show t.val - 15 = b.val by omega, show t.val - 7 = c.val by omega,
    show t.val - 2 = d.val by omega] at hword
  simp only [Sched.getElem?_eq, Option.getD_some] at hword
  exact Option.some.inj hword

/-- In a round of a run, ROUND uses the schedule word of its index (R166). -/
theorem Engine.schedWord_eq (e : Engine v) (t : Fin v.rounds) : e.schedWord t.val = e.sched[t] := by
  rw [Engine.schedWord, Sched.getElem?_eq, Option.getD_some]

end

/-- Settles O42: the schedule of a block is its 16 words and then the recurrence. -/
theorem expandFillsTheSchedule : Obligations.ExpandFillsTheSchedule := fun v s =>
  ⟨(s.engine v).expand, exec_expand v s, rfl, schedule_getElem_first _,
    fun _ _ _ _ _ => schedule_getElem_later _, rfl, rfl, rfl, rfl, rfl, rfl, rfl, rfl, rfl, rfl⟩

/-- Settles O43: the constant and the schedule word of round `t` are those of the tables, and RND has room for `t + 1`. -/
theorem roundUpdatesTheWorkingRegisters : Obligations.RoundUpdatesTheWorkingRegisters := by
  intro v s t kt hrnd hkt
  have hK : roundConst v (s.engine v).rnd.toNat = kt := by rw [hrnd, roundConst, hkt, Option.getD_some]
  have hW : (s.engine v).schedWord (s.engine v).rnd.toNat = (s.engine v).sched[t] := by rw [hrnd, Engine.schedWord_eq]
  have hwork : (s.engine v).round.work = (s.engine v).work.round kt (s.engine v).sched[t] := by rw [Engine.round_work, hK, hW]
  have hnext : (s.engine v).round.rnd.toNat = t.val + 1 := by rw [Engine.round_rnd_toNat (hrnd ▸ t.isLt), hrnd]
  refine ⟨(s.engine v).round, _, _, exec_round v s, rfl, rfl, rfl, ?_⟩
  rw [hwork, hnext, Engine.round_phase, hrnd]
  exact ⟨rfl, rfl, rfl, rfl, rfl, rfl, rfl, rfl, rfl, fun h => if_pos h, fun h => if_neg h⟩

/-- Settles O44: the eight sums are those of `addWorking`, and BLK has room for one more. -/
theorem updateAddsTheWorkingRegisters : Obligations.UpdateAddsTheWorkingRegisters := by
  intro v s hroom
  have hnext : (s.engine v).update.blk.toNat = (s.engine v).blk.toNat + 1 := BitVec.toNat_add_of_lt hroom
  have hphase : (s.engine v).update.phase = if (s.engine v).blk.toNat + 1 < (s.engine v).nblk.toNat then 4#4 else 7#4 := by
    rw [← hnext]
    rfl
  refine ⟨(s.engine v).update, exec_update v s, rfl, rfl, rfl, rfl, rfl, rfl, rfl, rfl, rfl, hnext, ?_⟩
  rw [hphase]
  exact ⟨fun h => if_pos h, fun h => if_neg (by omega)⟩

/-! ## The primes that the tables are made of (R161 to R164) -/

/-- The first 80 primes. -/
def primesBelow410 : List Nat :=
  [2, 3, 5, 7, 11, 13, 17, 19, 23, 29, 31, 37, 41, 43, 47, 53, 59, 61, 67, 71, 73, 79, 83, 89, 97, 101, 103, 107, 109, 113, 127, 131, 137,
    139, 149, 151, 157, 163, 167, 173, 179, 181, 191, 193, 197, 199, 211, 223, 227, 229, 233, 239, 241, 251, 257, 263, 269, 271, 277, 281,
    283, 293, 307, 311, 313, 317, 331, 337, 347, 349, 353, 359, 367, 373, 379, 383, 389, 397, 401, 409]

/-- A number below `21 ^ 2` is prime if none of 2 to 20 divides it, itself apart. -/
theorem prime_iff_of_lt_441 {n : Nat} (h : n < 441) : n.Prime ↔ 2 ≤ n ∧ ∀ d ∈ List.range' 2 19, d ∣ n → d = n := by
  constructor
  · intro hn
    refine ⟨hn.two_le, fun d hd hdvd => ((Nat.dvd_prime hn).mp hdvd).resolve_left ?_⟩
    have := List.mem_range'_1.mp hd
    omega
  · intro ⟨h2, hn⟩
    refine Nat.prime_def_le_sqrt.mpr ⟨h2, fun d hd2 hsqrt hdvd => ?_⟩
    have hsq : d * d ≤ n := Nat.le_sqrt.mp hsqrt
    have hd : d = n := hn d (List.mem_range'_1.mpr ⟨hd2, by nlinarith⟩) hdvd
    nlinarith

theorem filter_prime_range_410 : (List.range 410).filter Nat.Prime = primesBelow410 := by
  have htrial : ∀ n ∈ List.range 410, decide n.Prime = decide (2 ≤ n ∧ ∀ d ∈ List.range' 2 19, d ∣ n → d = n) := fun n hn =>
    decide_eq_decide.mpr (prime_iff_of_lt_441 ((List.mem_range.mp hn).trans (by decide)))
  rw [List.filter_congr htrial]
  decide

section
variable {P : Nat → Prop} [DecidablePred P]

theorem length_filter_range (n : Nat) : ((List.range n).filter P).length = Nat.count P n := by
  rw [Nat.count, List.countP_eq_length_filter]

/-- In the list of the numbers with a property, each stands at the place that the count of the smaller ones gives. -/
theorem filter_range_getElem?_count {n a : Nat} (ha : P a) (hn : a < n) : ((List.range n).filter P)[Nat.count P a]? = some a := by
  induction n with
  | zero => omega
  | succ n ih =>
    rw [List.range_succ, List.filter_append]
    obtain h | rfl := Nat.lt_succ_iff_lt_or_eq.mp hn
    · obtain ⟨hlen, -⟩ := List.getElem?_eq_some_iff.mp (ih h)
      rw [List.getElem?_append_left hlen, ih h]
    · rw [List.getElem?_append_right (length_filter_range a).le, length_filter_range]
      simp [ha]

end

/-- Prime number `t`, counting from 0, for a `t` below 80. -/
theorem primesBelow410_getElem? {p t : Nat} (hp : p.Prime) (ht : p.primeCounting' = t) (h80 : t < 80) :
    primesBelow410[t]? = some p := by
  have hcount : Nat.count Nat.Prime 410 = 80 := by
    rw [← length_filter_range, filter_prime_range_410]
    rfl
  have hlt : p < 410 := Nat.lt_of_count_lt_count (p := Nat.Prime) (by rw [hcount]; exact ht.trans_lt h80)
  rw [← filter_prime_range_410, ← ht]
  exact filter_range_getElem?_count hp hlt

/-- What stands at the same place of two lists is a pair of their zip. -/
theorem mem_zip_of_getElem? {α β : Type} {l : List α} {r : List β} {i : Nat} {a : α} {b : β} (ha : l[i]? = some a) (hb : r[i]? = some b) :
    (a, b) ∈ l.zip r :=
  List.mem_of_getElem? (List.getElem?_zip_eq_some.mpr ⟨ha, hb⟩)

/-! ## The IV tables (R161, R162) -/

theorem sqrt_of_mem_zip_iv32 : ∀ x ∈ (primesBelow410.drop 8).zip (iv .e32).toList, x.2.toNat = Nat.sqrt (x.1 * 2 ^ 128) % 2 ^ 32 := by
  norm_num [primesBelow410, iv]

theorem sqrt_of_mem_zip_iv64 : ∀ x ∈ primesBelow410.zip (iv .e64).toList, x.2.toNat = Nat.sqrt (x.1 * 2 ^ 128) % 2 ^ 64 := by
  norm_num [primesBelow410, iv]

/-- Settles O51: the primes are entries of the list of primes, and the tables are compared with the roots of the entries beside them. -/
theorem initialStateIsSquareRootFractions : Obligations.InitialStateIsSquareRootFractions := by
  have hiv (v : Variant) (k : Fin 8) : (iv v).toList[k.val]? = some (iv v)[k] := by simp
  refine ⟨fun k p hp hk => ?_, fun k p hp hk => ?_⟩
  · have hprime : (primesBelow410.drop 8)[k.val]? = some p := by
      rw [List.getElem?_drop, Nat.add_comm]
      exact primesBelow410_getElem? hp hk (by omega)
    exact sqrt_of_mem_zip_iv32 _ (mem_zip_of_getElem? hprime (hiv .e32 k))
  · exact sqrt_of_mem_zip_iv64 _ (mem_zip_of_getElem? (primesBelow410_getElem? hp hk (by omega)) (hiv .e64 k))

/-! ## The round constants (R163, R164) -/

/-- Two numbers whose cubes enclose the same number from below, and those of their successors from above, are equal. -/
theorem cubeRoot_unique {n r q : Nat} (hr : r ^ 3 ≤ n) (hr' : n < (r + 1) ^ 3) (hq : q ^ 3 ≤ n) (hq' : n < (q + 1) ^ 3) : r = q := by
  have hrq : r < q + 1 := lt_of_pow_lt_pow_left₀ 3 (Nat.zero_le _) (hr.trans_lt hq')
  have hqr : q < r + 1 := lt_of_pow_lt_pow_left₀ 3 (Nat.zero_le _) (hq.trans_lt hr')
  omega

/-- Behind an integer part `i`, the constant is the fraction of the cube root of the prime beside it. -/
theorem cubeRoot_of_mem_zip_kTable (v : Variant) : ∀ x ∈ primesBelow410.zip (kTable v), ∃ i < 8,
    (i * 2 ^ v.w + x.2.toNat) ^ 3 ≤ x.1 * 2 ^ (3 * v.w) ∧ x.1 * 2 ^ (3 * v.w) < (i * 2 ^ v.w + x.2.toNat + 1) ^ 3 := by
  cases v with
  | e32 => decide
  | e64 => decide

/-- Settles O52: `r` is the integer part and the constant that the table's cube roots give, and `mod 2 ^ w` leaves the constant. -/
theorem roundConstantsAreCubeRootFractions : Obligations.RoundConstantsAreCubeRootFractions := by
  intro v t p r ht hp hcount hr hr'
  have hlen : (kTable v).length = v.rounds := by cases v <;> rfl
  have hR : v.rounds ≤ 80 := by cases v <;> decide
  have hK : (kTable v)[t]? = some (roundConst v t) := by simp [roundConst, hlen, ht]
  have hprime := primesBelow410_getElem? hp hcount (by omega)
  obtain ⟨i, -, hq, hq'⟩ := cubeRoot_of_mem_zip_kTable v _ (mem_zip_of_getElem? hprime hK)
  rw [cubeRoot_unique hr hr' hq hq', Nat.mul_add_mod_self_right, Nat.mod_eq_of_lt (roundConst v t).isLt]

end Sys2Proof.Machine

/-! # The assembler's obligations (43_assembler.md)

ASSEMBLE as an instruction, and the bytes of the digest string it leaves in HEX. -/

namespace Sys2Proof.Machine

theorem exec_assemble (v : Variant) (s : State) : exec (.assemble v) s = .next (s.setEngine v (s.engine v).assemble) := rfl

/-- Every word has digits (R191). -/
theorem hexDigits_pos (v : Variant) : 0 < v.w / 4 := by cases v <;> decide

section
variable {v : Variant} (h : Words8 v)

/-- HEX holds the digest string and, past its end, 0x00 (R190). -/
theorem hexBuffer_getElem (i : Fin 128) : (hexBuffer v h)[i] = (digestString v h)[i.val]?.getD 0x00#8 := by
  simp [hexBuffer]

theorem hexBuffer_zero {i : Fin 128} (hi : hexLen v ≤ i.val) : (hexBuffer v h)[i] = 0x00#8 := by
  rw [hexBuffer_getElem, List.getElem?_eq_none (by rwa [digestString_length]), Option.getD_none]

theorem isHexChar_hexBuffer {i : Fin 128} (hi : i.val < hexLen v) : isHexChar (hexBuffer v h)[i] := by
  rw [← digestString_length v h] at hi
  rw [hexBuffer_getElem, List.getElem?_eq_getElem hi, Option.getD_some]
  exact isHexChar_of_mem_digestString (List.getElem_mem hi)

/-- Byte `i` of HEX is digit `i mod (w/4)` of the word `i div (w/4)` (R191, R192). -/
theorem hexBuffer_digit {i : Fin 128} {k : Fin 8} (hi : i.val < hexLen v) (hk : k.val = i.val / (v.w / 4)) :
    (hexBuffer v h)[i] = ascii (hexDigit h[k] (i.val % (v.w / 4))) := by
  have hlen : hexLen v = digestWords v * (v.w / 4) := by cases v <;> rfl
  have hword : i.val / (v.w / 4) < digestWords v := (Nat.div_lt_iff_lt_mul (hexDigits_pos v)).mpr (hlen ▸ hi)
  have hchar := digestString_getElem? h hword (Nat.mod_lt i.val (hexDigits_pos v))
  rw [Nat.div_add_mod', ← hk] at hchar
  rw [hexBuffer_getElem, hchar]
  simp

end

/-- Settles O45: HEX is `hexBuffer` of the State, whose bytes are the digits' characters. -/
theorem assembleRendersTheDigest : Obligations.AssembleRendersTheDigest := by
  intro v s
  refine ⟨(s.engine v).assemble, exec_assemble v s, rfl, rfl, ?_, fun i hi => hexBuffer_zero _ hi⟩
  rintro i k d x hi hk rfl rfl
  rw [Engine.assemble_hex, hexBuffer_digit _ hi hk, ascii_toNat, hexDigit_toNat _ (Nat.mod_lt i.val (hexDigits_pos v))]

/-- Settles O46: the string's length is that of its words' digits, and every digit is rendered as a lowercase character. -/
theorem digestIsLowercaseHexOfFixedLength : Obligations.DigestIsLowercaseHexOfFixedLength := by
  refine ⟨rfl, rfl, fun v s => ⟨_, exec_assemble v s, digestString_length v _, ?_⟩⟩
  rw [State.engine_setEngine, Engine.assemble_hex]
  exact ⟨fun _ => isHexChar_hexBuffer _, fun _ => hexBuffer_zero _⟩

end Sys2Proof.Machine

/-! # The host interface's obligations (44_host_interface.md)

Steps, the commands, the reads and writes of the byte regions, the reserved sizes, and a run under any interleaving of host steps. -/

namespace Sys2Proof.Machine

/-! ## Steps (R210, R211) -/

/-- With one engine busy, that is the one that goes on when nothing is scheduled (log 3). -/
theorem idleEngine_of_busy {s : State} {v u : Variant} (hne : v ≠ u) (busy : (s.engine v).busy = true)
    (waiting : (s.engine u).busy = false) : idleEngine s = v := by
  match v, u with
  | .e32, .e64 =>
    have h64 : s.e64.busy = false := waiting
    simp [idleEngine, h64]
  | .e64, .e32 =>
    have h64 : s.e64.busy = true := busy
    have h32 : s.e32.busy = false := waiting
    simp [idleEngine, h64, h32]
  | .e32, .e32 | .e64, .e64 => exact absurd rfl hne

/-- Settles O5: each kind of stimulus has its step equation, and the empty schedule picks the busy engine. -/
theorem stepRunsTheDecodedInstruction : Obligations.StepRunsTheDecodedInstruction := by
  refine ⟨?_, ?_, ?_⟩
  · rintro s v rest _ hin rfl
    exact step_engine hin
  · rintro s v access rest _ hin rfl
    exact step_bus hin
  · rintro s v u _ hin hne busy waiting rfl
    rw [step_nil hin, idleEngine_of_busy hne busy waiting]
    rfl

/-- Settles O6: a reset answers a next state, and so does every instruction. -/
theorem everyStepAnswersNext : Obligations.EveryStepAnswersNext := by
  intro s
  match h : nextEvent s with
  | (.reset v, t) => exact ⟨t.modify v Engine.resetEvent, by rw [step, h]⟩
  | (.code v c, t) =>
    obtain ⟨t', ht, -⟩ := exec_next (decode v c) t
    exact ⟨t', by rw [step, h]; exact ht⟩

/-! ## Commands (R218 to R222) -/

/-- Settles O13: its arm answers the state. -/
theorem nopChangesNothing : Obligations.NopChangesNothing := fun _ _ => rfl

/-- Settles O14: the arms of the waiting phases answer the state. -/
theorem waitingPhasesChangeNothing : Obligations.WaitingPhasesChangeNothing := fun _ _ =>
  ⟨rfl, rfl, rfl, rfl, rfl, rfl, rfl, rfl, rfl⟩

section
variable (v : Variant) (s : State)

theorem exec_start : exec (.start v) s = .next (s.setEngine v ((s.engine v).start s.par)) := rfl

theorem exec_clear : exec (.clear v) s = .next (s.setEngine v (s.engine v).clear) := rfl

theorem exec_clrErr : exec (.clrErr v) s = .next (s.setEngine v (s.engine v).clearError) := rfl

end

section
variable {v : Variant} {p : Params} {e : Engine v}

theorem Engine.start_of_busy (busy : e.busy = true) : e.start p = e.raise .busyCmd := by
  simp [Engine.start, busy]

theorem Engine.start_of_long (waiting : e.busy = false) (long : msgCap p < e.msgLen.toNat) : e.start p = e.raise .lenRange := by
  simp [Engine.start, waiting, long]

theorem Engine.start_of_fits (waiting : e.busy = false) (fits : e.msgLen.toNat ≤ msgCap p) : e.start p = { e with phase := 1#4 } := by
  simp [Engine.start, waiting, Nat.not_lt.mpr fits]

end

/-- Settles O15: an accepted START writes PHASE alone, and code 1 is a busy phase. -/
theorem startBeginsARun : Obligations.StartBeginsARun := by
  intro v s waiting fits
  refine ⟨{ s.engine v with phase := 1#4 }, ?_, rfl, rfl, rfl, rfl⟩
  rw [exec_start, Engine.start_of_fits waiting fits]

/-- Settles O16: a refused START records its error, which touches the error record alone. -/
theorem startIsRefusedWhenBusyOrTooLong : Obligations.StartIsRefusedWhenBusyOrTooLong := by
  intro v s
  refine ⟨fun busy => ?_, fun waiting long => ?_⟩
  · refine ⟨(s.engine v).raise .busyCmd, ?_, Engine.raise_frame _ _, Engine.raise_err _ _, Engine.raise_errCode _ _⟩
    rw [exec_start, Engine.start_of_busy busy]
  · refine ⟨(s.engine v).raise .lenRange, ?_, Engine.raise_frame _ _, Engine.raise_err _ _, Engine.raise_errCode _ _⟩
    rw [exec_start, Engine.start_of_long waiting long]

/-- After CLEAR every field of STATUS is 0 (R35, R220). -/
theorem Engine.clear_status {v : Variant} (e : Engine v) : e.clear.status = 0x00000000#32 := by
  apply BitVec.eq_of_toNat_eq
  simp [Engine.status_toNat, Engine.isDone, Engine.busy]

/-- Settles O17: the elements of R220 have their reset values, and the others, the buffers among them, are kept. -/
theorem clearReturnsToIdle : Obligations.ClearReturnsToIdle := fun v s =>
  ⟨(s.engine v).clear, exec_clear v s, rfl, rfl, rfl, rfl, fun i => by simp, rfl, rfl, rfl, rfl, rfl, rfl, Engine.clear_status _, rfl,
    rfl, rfl, fun _ => rfl, fun _ => rfl⟩

/-- Settles O18: CLRERR writes the error record alone. -/
theorem clrErrClearsOnlyTheErrorRecord : Obligations.ClrErrClearsOnlyTheErrorRecord := fun v s =>
  ⟨(s.engine v).clearError, exec_clrErr v s, rfl, rfl, rfl⟩

/-- Settles O19: the three rows record BAD_CMD and do nothing else. -/
theorem reservedCommandRowsRaiseBadCmd : Obligations.ReservedCommandRowsRaiseBadCmd := fun v _ _ _ _ s =>
  ⟨(s.engine v).raise .badCmd, rfl, rfl, rfl, Engine.raise_frame _ _, Engine.raise_err _ _, Engine.raise_errCode _ _⟩

/-! ## Reads of the byte regions and the reserved sizes (R212, R213, R216) -/

/-- Lane `i` of four bytes of the window is the byte at `o + i` (R53). -/
theorem Engine.extract_ofLanes_byteAt {v : Variant} (e : Engine v) (p : Params) (o : Nat) {i : Nat} (hi : i < 4) :
    (ofLanes (e.byteAt p o) (e.byteAt p (o + 1)) (e.byteAt p (o + 2)) (e.byteAt p (o + 3))).extractLsb' (8 * i) 8 =
      e.byteAt p (o + i) := by
  rw [extract_ofLanes _ _ _ _ hi]
  match i, hi with
  | 0, _ | 1, _ | 2, _ | 3, _ => rfl

/-- Settles O23: lane `i` is the byte at `off + i`, which lies in the region of `off`, as the regions begin and end at aligned offsets. -/
theorem wordReadsOfTheByteRegions : Obligations.WordReadsOfTheByteRegions := by
  intro v s off hc ha
  refine ⟨_, exec_rd32_bytes v s hc ha, fun i hi => ?_⟩
  have hcap := msgCap_mod s.par
  rw [Engine.extract_ofLanes_byteAt _ _ _ hi]
  refine ⟨fun high => ?hexwin, fun low high => ?reserved, fun low high => ?msgwin, fun low => ?unmapped⟩
  case hexwin => rw [Engine.byteAt_hexwin _ _ (by omega) (by omega), Nat.sub_add_comm hc]
  case reserved => exact Engine.byteAt_reserved _ _ (by omega) (by omega)
  case msgwin => rw [Engine.byteAt_msgwin _ _ (by omega) (by omega), Nat.sub_add_comm low]
  case unmapped => exact Engine.byteAt_unmapped _ _ (by omega)

/-- A 1-byte read of CONTROL answers 0 and changes only the error record. -/
theorem exec_rd8_control (v : Variant) (s : State) {off : Bus32} (hc : off.toNat < 0x100) :
    exec (.rd8 v off) s = .next ((s.setEngine v ((s.engine v).raise .badWidth)).setRdata v 0#32) := by
  rcases (s.engine v).rd8_cases s.par off with ⟨h, -⟩ | ⟨-, h⟩
  · omega
  · simp [exec, execRd8, State.read, h]

/-- Settles O25: CONTROL is refused with BAD_WIDTH, and above it the answer is the byte that its region gives. -/
theorem byteReadsReturnTheByte : Obligations.ByteReadsReturnTheByte := by
  intro v s off
  refine ⟨fun hc => ?control, fun hc => ?above⟩
  case control => exact ⟨_, exec_rd8_control v s hc, Engine.raise_frame _ _, Engine.raise_err _ _, Engine.raise_errCode _ _⟩
  case above =>
    exact ⟨_, exec_rd8_byte v s hc, Engine.byteAt_hexwin _ _ hc, Engine.byteAt_reserved _ _, Engine.byteAt_msgwin _ _,
      Engine.byteAt_unmapped _ _⟩

/-- Settles O32: the four kinds record BAD_WIDTH, whatever the offset, and the reads answer 0. -/
theorem reservedSizesRaiseBadWidth : Obligations.ReservedSizesRaiseBadWidth := fun v s _ _ =>
  ⟨(s.engine v).raise .badWidth, Engine.raise_frame _ _, Engine.raise_err _ _, Engine.raise_errCode _ _, rfl, rfl, rfl, rfl⟩

/-! ## Writes of MSGWIN (R214, R215) -/

/-- Settles O28: the bytes stored are the lanes of the data, from the index of `off` on. -/
theorem wordWriteStoresFourLanes : Obligations.WordWriteStoresFourLanes := by
  intro v s off x waiting ha low high
  refine ⟨_, exec_wr32_msgwin waiting ha low high x, rfl, fun i hi => ?_, fun a outside => ?_⟩
  · rw [Engine.msgByte_storeMsg_inside _ _ _ (Nat.le_add_right _ _) (by simpa using hi)]
    simp only [Nat.add_sub_cancel_left]
    exact lanes_getElem x hi
  · exact Engine.msgByte_storeMsg_outside _ _ _ outside

/-- Lane 0 of the data is its low byte. -/
theorem lane_zero_eq_ofNat (x : Bus32) : lane x 0 = BitVec.ofNat 8 x.toNat := by
  apply BitVec.eq_of_toNat_eq
  simp [lane]

/-- Settles O29: the byte stored is lane 0 of the data, at the index of `off`. -/
theorem byteWriteStoresOneByte : Obligations.ByteWriteStoresOneByte := by
  intro v s off x waiting low high
  refine ⟨_, exec_wr8_msgwin waiting low high x, rfl, ?_, fun a hne => ?_⟩
  · rw [Engine.msgByte_storeMsg_inside _ _ _ le_rfl (by simp)]
    simpa using lane_zero_eq_ofNat x
  · exact Engine.msgByte_storeMsg_outside _ _ _ (by simp; omega)

/-! ## A run under any interleaving (R62, R223 to R225) -/

section
variable {v : Variant}

/-- A run goes on as it was when only the error record changes. -/
theorem Engine.RunsFor.errorRecord {p : Params} {m : List Byte} {n : Nat} {e f : Engine v} (h : e.RunsFor p m n)
    (hf : f = { e with err := f.err, errCode := f.errCode }) : f.RunsFor p m n := by
  rw [hf]
  exact ⟨{ h.onCourse with }, h.message, h.result, h.left⟩

/-- While an engine is busy, a stimulus that neither steps nor aborts it changes its error record at most. -/
theorem step_busy_keeps {s : State} {x : Stimulus} {rest : List Stimulus} (hin : s.inbox = x :: rest) (busy : (s.engine v).busy = true)
    (other : x ≠ .engine v) (noAbort : ¬ x.aborts v) :
    ∃ t, step s = .next t ∧ t.inbox = rest ∧
      t.engine v = { s.engine v with err := (t.engine v).err, errCode := (t.engine v).errCode } := by
  cases x with
  | engine u =>
    have hne : v ≠ u := fun h => other (h ▸ rfl)
    refine ⟨_, step_microStep hin, by simp, ?_⟩
    rw [State.engine_setEngine_ne _ hne, State.engine_inbox]
  | reset u =>
    have hne : v ≠ u := fun h => noAbort (.inl (h ▸ rfl))
    refine ⟨_, step_reset hin, by simp, ?_⟩
    rw [State.engine_setEngine_ne _ hne, State.engine_inbox]
  | bus u access =>
    obtain ⟨t, ht, -, hother, -, hinbox, -⟩ := exec_next (decode u access.code) { s with inbox := rest }
    refine ⟨t, (step_bus hin).trans ht, hinbox, ?_⟩
    by_cases hu : v = u
    · subst hu
      obtain ⟨t', ht', -, hkeeps⟩ :=
        busyAccessesChangeOnlyTheErrorRecord v { s with inbox := rest } access (by rwa [State.engine_inbox]) noAbort
      obtain rfl : t = t' := Host.Outcome.next.inj (ht.symm.trans ht')
      rwa [State.engine_inbox] at hkeeps
    · rw [(hother v (by simpa using hu)).1, State.engine_inbox]

variable (p : Params) (m : List Byte)

/-- The engine's own stimulus makes one micro-step of its run. -/
theorem leads_microStep (n : Nat) :
    Leads [.engine v] (fun s => (s.engine v).RunsFor p m (n + 1)) (fun s => (s.engine v).RunsFor p m n) :=
  .single fun _ _ hin hs => ⟨_, step_microStep hin, by simp, by simpa using hs.microStep⟩

/-- A run that is not over waits while something else happens. -/
theorem leads_other {x : Stimulus} (other : x ≠ .engine v) (noAbort : ¬ x.aborts v) {n : Nat} (hn : 0 < n) :
    Leads [x] (fun s => (s.engine v).RunsFor p m n) (fun s => (s.engine v).RunsFor p m n) :=
  .single fun s _ hin hs => by
    have busy : (s.engine v).busy = true := Engine.stepsLeft_pos_iff.mp (by rwa [hs.left])
    obtain ⟨t, ht, hinbox, hkeeps⟩ := step_busy_keeps hin busy other noAbort
    exact ⟨t, ht, hinbox, hs.errorRecord hkeeps⟩

/-- Under any schedule that does not abort it, a run makes as many micro-steps as the schedule holds for its engine, if more remain. -/
theorem leads_interleaved {xs : List Stimulus} (noAbort : ∀ x ∈ xs, ¬ x.aborts v) {n : Nat} (hn : 0 < n) :
    Leads xs (fun s => (s.engine v).RunsFor p m (xs.count (.engine v) + n)) (fun s => (s.engine v).RunsFor p m n) := by
  induction xs with
  | nil => simpa using Leads.nil
  | cons x xs ih =>
    have more := ih fun y hy => noAbort y (List.mem_cons_of_mem x hy)
    refine Leads.cons ?_ more
    by_cases hx : x = .engine v
    · subst hx
      rw [List.count_cons_self, Nat.add_right_comm]
      exact leads_microStep p m _
    · rw [List.count_cons_of_ne hx]
      exact leads_other p m hx (noAbort x List.mem_cons_self) (by omega)

/-- In INIT, with a length that fits, an engine begins a run for the message in MSG (R219, R225). -/
theorem Engine.runsFor_of_init {p : Params} {e : Engine v} (hp : e.phase = 1#4) (fits : e.msgLen.toNat ≤ msgCap p) :
    e.RunsFor p e.runMessage (Reference.runLength v e.msgLen.toNat) :=
  ⟨Engine.onCourse_start hp fits, fun _ => rfl, by simp [Engine.busy, hp], by simp [Engine.stepsLeft, hp]⟩

end

/-- Settles O57: the schedule leaves the run a micro-step to make, and a run that has one is busy. -/
theorem runIsBusyUntilItsLastMicroStep : Obligations.RunIsBusyUntilItsLastMicroStep := by
  intro s v xs rest hp fits noAbort hcount hin
  obtain ⟨n, hn⟩ := Nat.exists_eq_add_of_lt hcount
  have hrun := Engine.runsFor_of_init hp fits
  rw [hn] at hrun
  obtain ⟨t, ht, -, hleft⟩ := leads_interleaved s.par _ noAbort (Nat.succ_pos n) s rest hin hrun
  exact ⟨t, ht, Engine.stepsLeft_pos_iff.mp (by rw [hleft.left]; exact Nat.succ_pos n)⟩

/-- Settles O58: the schedule before it leaves the run its last micro-step, which leaves the digest. -/
theorem hashRunEndsWithTheDigest : Obligations.HashRunEndsWithTheDigest := by
  intro s v xs rest hp fits noAbort hcount hin
  have hrun := Engine.runsFor_of_init hp fits
  rw [← hcount] at hrun
  have script := (leads_interleaved s.par _ noAbort Nat.one_pos).append (leads_run (s.engine v).runMessage 1)
  obtain ⟨t, ht, hinbox, hdigest⟩ := script s rest (by simpa using hin) hrun
  exact ⟨t, by simpa using ht, hinbox, hdigest⟩

end Sys2Proof.Machine

/-! # The errors' obligations (60_exceptions.md)

The error that a bus access records, check by check in the order of R253, and what clears the record. -/

namespace Sys2Proof.Machine

/-! ## The first failing check decides (R252, R253) -/

/-- What the outcome of the checks makes of an engine: the error of a failing check is recorded and nothing else changes; with every check
passed, no error is recorded. -/
def Engine.ErrorDecided {v : Variant} (e : Engine v) : Option IfaceError → Engine v → Prop
  | some c, f => f = e.raise c
  | none, f => e.err = false → f.err = false

section
variable {v : Variant} {e f : Engine v}

@[simp] theorem Engine.errorDecided_some (c : IfaceError) : e.ErrorDecided (some c) f ↔ f = e.raise c := Iff.rfl

@[simp] theorem Engine.errorDecided_none : e.ErrorDecided none f ↔ (e.err = false → f.err = false) := Iff.rfl

theorem Engine.ErrorDecided.refused {o : Option IfaceError} {c : IfaceError} (h : e.ErrorDecided o f) (hc : o = some c) :
    f = e.raise c := by
  subst hc
  exact h

theorem Engine.ErrorDecided.accepted {o : Option IfaceError} (h : e.ErrorDecided o f) (hc : o = none) :
    e.err = false → f.err = false := by
  subst hc
  exact h

end

section
variable {v : Variant} (p : Params) (e : Engine v)

/-- The checks of a WR32 to CMD are those of its command word: CMD is aligned and neither in MSGWIN nor MSG_LEN. -/
theorem accessError_cmd (word : Bus32) :
    accessError p e (.write 2#2 0x004#32 word) =
      if 4 ≤ word.toNat then some .badCmd
      else if word.toNat = 1 ∧ e.busy = true then some .busyCmd
      else if word.toNat = 1 ∧ msgCap p < e.msgLen.toNat then some .lenRange
      else none := by
  simp [accessError, region_msgwin_iff]

/-- The checks of a WR32 elsewhere: the alignment and the lockout. -/
theorem accessError_wr32 {off : Bus32} (hcmd : off ≠ 0x004#32) (x : Bus32) :
    accessError p e (.write 2#2 off x) =
      if off.toNat % 4 ≠ 0 then some .misaligned
      else if (region p off.toNat = .msgwin ∨ off = 0x00C#32) ∧ e.busy = true then some .busyWrite
      else none := by
  have hcmd' : off.toNat ≠ 0x004 := fun h => hcmd (BitVec.eq_of_toNat_eq h)
  simp [accessError, hcmd', BitVec.toNat_eq]

/-- The checks of a WR8: the width, which CONTROL refuses, and the lockout. -/
theorem accessError_wr8 (off x : Bus32) :
    accessError p e (.write 0#2 off x) =
      if off.toNat < 0x100 then some .badWidth
      else if region p off.toNat = .msgwin ∧ e.busy = true then some .busyWrite
      else none := by
  by_cases hc : off.toNat < 0x100
  · simp [accessError, hc]
  · have hlen : off.toNat ≠ 0x00C := by omega
    have hcmd : off.toNat ≠ 0x004 := by omega
    simp [accessError, hc, hlen, hcmd]

/-- A command word is refused if it is reserved, or if it is a START that R219 refuses (R217, R222). -/
theorem Engine.errorDecided_execCmd (word : Bus32) :
    e.ErrorDecided (accessError p e (.write 2#2 0x004#32 word)) (e.execCmd p word) := by
  rw [accessError_cmd]
  by_cases reserved : 4 ≤ word.toNat
  · have hword : commandRsv word ≠ 0#28 ∨ 4 ≤ (commandOp word).toNat := by
      rw [ne_eq, BitVec.toNat_eq, toNat_commandRsv, toNat_commandOp, BitVec.toNat_ofNat]
      omega
    rw [if_pos reserved]
    exact if_pos hword
  · have hword : word = 0#32 ∨ word = 1#32 ∨ word = 2#32 ∨ word = 3#32 := by
      simp only [BitVec.toNat_eq, BitVec.toNat_ofNat]
      omega
    rcases hword with rfl | rfl | rfl | rfl
    · exact id
    · rw [show e.execCmd p 1#32 = e.start p from rfl]
      rcases e.start_cases p with ⟨busy, h⟩ | ⟨waiting, long, h⟩ | ⟨waiting, fits, h⟩ <;> rw [h]
      · simp [busy]
      · simp [waiting, long]
      · simp [waiting, Nat.not_lt.mpr fits]
    · exact fun _ => rfl
    · exact fun _ => rfl

/-- WR32 makes its checks in the order of R253, and the writes that pass them leave the error record alone. -/
theorem Engine.errorDecided_wr32 (off x : Bus32) : e.ErrorDecided (accessError p e (.write 2#2 off x)) (e.wr32 p off x) := by
  by_cases hcmd : off = 0x004#32
  · subst hcmd
    have h : e.wr32 p 0x004#32 x = e.execCmd p x := by simp [Engine.wr32, aligned, region_msgwin_iff]
    exact h ▸ e.errorDecided_execCmd p x
  · rw [accessError_wr32 p e hcmd]
    by_cases ha : off.toNat % 4 = 0
    · by_cases lock : (region p off.toNat = .msgwin ∨ off = 0x00C#32) ∧ e.busy = true
      · simp [Engine.wr32, aligned, ha, lock]
      · have halign : ¬ (!aligned off) = true := by simp [aligned, ha]
        rw [if_neg (not_not.mpr ha), if_neg lock, Engine.wr32, if_neg halign, if_neg lock]
        split_ifs <;> exact id
    · simp [Engine.wr32, aligned, ha]

/-- WR8 makes its checks in the order of R253, and a store leaves the error record alone. -/
theorem Engine.errorDecided_wr8 (off x : Bus32) : e.ErrorDecided (accessError p e (.write 0#2 off x)) (e.wr8 p off x) := by
  rw [accessError_wr8, Engine.wr8]
  simp only [← region_control_iff p]
  cases region p off.toNat with
  | control => simp
  | msgwin => by_cases busy : e.busy = true <;> simp [busy]
  | hexwin | reserved | unmapped => simp

end

/-! ## Accesses as instructions (R212 to R216) -/

/-- The four size codes of a transaction (R84, R85). -/
theorem size_cases (size : BitVec 2) : size = 0#2 ∨ size = 1#2 ∨ size = 2#2 ∨ size = 3#2 := by
  revert size
  decide

section
variable (v : Variant) (s : State) (size : BitVec 2) (off : Bus32)

/-- A WR32 runs as `Engine.wr32`, also where the decoder reads a command word (R217). -/
theorem exec_write_word (x : Bus32) :
    exec (decode v (BusAccess.write 2#2 off x).code) s = .next (s.modify v (Engine.wr32 s.par · off x)) := by
  by_cases hcmd : off = 0x004#32
  · subst hcmd
    exact (writeToCmdExecutesTheCommandWord v x s).1.symm
  · simp [BusAccess.code, hcmd, decode, decodeBus, exec, execWr32]

/-- What a write makes of its engine is decided by its checks, and it records no answer. -/
theorem exec_write_errorDecided (x : Bus32) :
    ∃ f, exec (decode v (BusAccess.write size off x).code) s = .next (s.setEngine v f) ∧
      (s.engine v).ErrorDecided (accessError s.par (s.engine v) (.write size off x)) f := by
  rcases size_cases size with rfl | rfl | rfl | rfl
  · exact ⟨_, rfl, Engine.errorDecided_wr8 _ _ _ _⟩
  · exact ⟨(s.engine v).raise .badWidth, rfl, by simp [accessError]⟩
  · exact ⟨_, exec_write_word v s off x, Engine.errorDecided_wr32 _ _ _ _⟩
  · exact ⟨(s.engine v).raise .badWidth, rfl, by simp [accessError]⟩

/-- What a read makes of its engine is decided by its checks, and a refused read answers 0. -/
theorem exec_read_errorDecided :
    ∃ f x, exec (decode v (BusAccess.read size off).code) s = .next ((s.setEngine v f).setRdata v x) ∧
      (s.engine v).ErrorDecided (accessError s.par (s.engine v) (.read size off)) f ∧
      (accessError s.par (s.engine v) (.read size off) ≠ none → x = 0x00000000#32) := by
  rcases size_cases size with rfl | rfl | rfl | rfl
  · refine ⟨_, _, rfl, ?_⟩
    rcases (s.engine v).rd8_cases s.par off with ⟨hc, h⟩ | ⟨hc, h⟩
    · simp [accessError, h, Nat.not_lt.mpr hc]
    · simp [accessError, h, hc]
  · exact ⟨(s.engine v).raise .badWidth, _, rfl, by simp [accessError], fun _ => rfl⟩
  · refine ⟨_, _, rfl, ?_⟩
    rcases (s.engine v).rd32_cases s.par off with ⟨ha, h⟩ | ⟨ha, h⟩
    · simp [accessError, h, ha]
    · simp [accessError, h, ha]
  · exact ⟨(s.engine v).raise .badWidth, _, rfl, by simp [accessError], fun _ => rfl⟩

end

/-- Settles O33: an access makes its checks in the rule's order, and the first that fails makes it `Engine.raise` alone. -/
theorem firstFailingCheckDecidesTheError : Obligations.FirstFailingCheckDecidesTheError := by
  intro v s access
  cases access with
  | read size off =>
    obtain ⟨f, x, ht, hf, hx⟩ := exec_read_errorDecided v s size off
    refine ⟨_, ht, State.onlyInstance_recordAnswer s v f (some x), fun c hc => ⟨?_, fun _ _ _ => ?_, nofun⟩, fun hc => ?_⟩
    · rw [State.engine_setRdata, State.engine_setEngine]
      exact hf.refused hc
    · simpa using hx (by simp [hc])
    · simpa using hf.accepted hc
  | write size off x =>
    obtain ⟨f, ht, hf⟩ := exec_write_errorDecided v s size off x
    refine ⟨_, ht, State.onlyInstance_recordAnswer s v f none, fun c hc => ⟨?_, nofun, fun _ _ _ _ => ?_⟩, fun hc => ?_⟩
    · rw [State.engine_setEngine]
      exact hf.refused hc
    · simp
    · simpa using hf.accepted hc

/-! ## What clears the error record (R255) -/

/-- The instructions that clear the error record of engine `u`: CLRERR and CLEAR, also as a WR32 to CMD (R217, R255). -/
def clearsError (u : Variant) (i : Instr) : Prop :=
  i = .clrErr u ∨ i = .clear u ∨ i = .wr32 u 0x004#32 3#32 ∨ i = .wr32 u 0x004#32 2#32

theorem exec_clearsError {u : Variant} {i : Instr} (h : clearsError u i) (s : State) :
    ∃ f : Engine u, exec i s = .next (s.setEngine u f) ∧ f.err = false ∧ f.errCode = 0#4 := by
  rcases h with rfl | rfl | rfl | rfl
  · exact ⟨_, exec_clrErr u s, rfl, rfl⟩
  · exact ⟨_, exec_clear u s, rfl, rfl⟩
  · exact ⟨_, exec_wr32_cmd u s 3#32, rfl, rfl⟩
  · exact ⟨_, exec_wr32_cmd u s 2#32, rfl, rfl⟩

/-- No other instruction touches an error that is recorded: the operations that clear it belong to those instructions, and recording another
error keeps the first (R252). -/
theorem Engine.ChangedBy.keeps_error {p : Params} {u : Variant} {e f : Engine u} {i : Instr} (h : e.ChangedBy p i f)
    (herr : e.err = true) (other : ¬ clearsError u i) : f.err = true ∧ f.errCode = e.errCode := by
  cases h with
  | clearError cmd => exact absurd (by unfold clearsError; tauto) other
  | clear cmd => exact absurd (by unfold clearsError; tauto) other
  | raise c => simp [Engine.raise_of_err herr, herr]
  | keep | start | setLen | storeMsg | init | pad | segment | expand | round | update | assemble => simp [herr]

/-- Settles O34: of the operations that `ChangedBy` lists only `clearError` and `clear` clear the record, and a reset gives its own engine
the values of R48. -/
theorem onlyClrErrClearAndResetClearErrors : Obligations.OnlyClrErrClearAndResetClearErrors := by
  refine ⟨fun i s u herr => ?_, fun s v u rest hin => ?_⟩
  · by_cases h : clearsError u i
    · obtain ⟨f, hf, cleared⟩ := exec_clearsError h s
      exact ⟨_, hf, fun _ => by rwa [State.engine_setEngine], absurd h⟩
    · obtain ⟨t, ht, -, hchanged⟩ := exec_changedBy i s
      exact ⟨t, ht, fun h' => absurd h' h, (hchanged u).keeps_error herr⟩
  · refine ⟨_, step_reset hin, ?_, fun hne => ?_⟩
    · rintro rfl
      simp
    · rw [State.engine_setEngine_ne _ hne, State.engine_inbox]
      exact ⟨rfl, rfl⟩

end Sys2Proof.Machine

/-! # The reset event's obligation (70_reset_and_hazards.md)

The reset input of one instance (R280). -/

namespace Sys2Proof.Machine

/-- Settles O8: the step puts `Engine.resetEvent` in the instance, which has the values of R48 whatever the draws of the unspecified
elements are. -/
theorem resetEventResetsOneInstance : Obligations.ResetEventResetsOneInstance := by
  intro s v rest hin
  let e := s.engine v
  exact ⟨e.resetEvent, step_reset hin, e.resetEvent_phase, e.resetEvent_err, e.resetEvent_errCode, e.resetEvent_msgLen,
    e.resetEvent_nblk, e.resetEvent_blk, e.resetEvent_rnd, e.resetEvent_padLen, e.resetEvent_h, fun i => by simp⟩

end Sys2Proof.Machine
